-- ==== Sys2Proof/Word.lean ====
section
/-! DEFINITION. The word types of the CHIP-8 core: bytes, 16-bit words, 12-bit addresses, register numbers. -/

namespace Sys2Proof

/-- 8 bits: a general register, a timer, a memory cell (10_state.md R20, R30; 20_memory.md R60). -/
abbrev Byte := BitVec 8

/-- 16 bits: an instruction word, `PC`, `I`, a stack cell (10_state.md R24, R27, R28; 30_encoding.md R90). -/
abbrev Word := BitVec 16

/-- The 12-bit address immediate `NNN` (30_encoding.md R91). -/
abbrev Addr12 := BitVec 12

/-- A register number 0..15 (10_state.md R20); also a key number (R39). -/
abbrev Reg := Fin 16

/-- VF, general register 15, which doubles as the flag (10_state.md R22). -/
abbrev vf : Reg := 15

end Sys2Proof
end

