-- ==== Sys2Proof/Config.lean ====
section
/-! DEFINITION. The parameters of the block (00_scope.md R5) and the one free value, the random byte. -/

namespace Sys2Proof

/-- `MEM_SIZE`: bytes of memory (R5). -/
abbrev Config.memSize : Nat := 4096

/-- The last valid address, 0xFFF (20_memory.md R60). -/
abbrev Config.lastAddr : Nat := 0xFFF

/-- `PROG_BASE`: the load address and the reset `PC` (R5). -/
abbrev Config.progBase : Nat := 0x200

/-- `PROG_MAX`: the largest program image in bytes (R5). -/
abbrev Config.progMax : Nat := 3584

/-- `FONT_BASE` (R5). -/
abbrev Config.fontBase : Nat := 0x050

/-- `FONT_SIZE`: 16 glyphs of 5 bytes (R5). -/
abbrev Config.fontSize : Nat := 80

/-- `STACK_DEPTH` (R5). -/
abbrev Config.stackDepth : Nat := 16

/-- `DISP_W` (R5). -/
abbrev Config.dispW : Nat := 64

/-- `DISP_H` (R5). -/
abbrev Config.dispH : Nat := 32

/-- The random source `RNG` (00_scope.md R5, 10_state.md R38, 41_alu.md R153): the byte of draw number `n`.
A FREE VALUE: it has no body, so every claim holds whatever bytes the source supplies (DESIGN CHOICE, log entry 1). -/
opaque Config.randomByte : Nat → Byte

end Sys2Proof
end

