-- ==== Sys2Proof/Syntax.lean ====
section
/-! DEFINITION. The 34 instructions of 30_encoding.md R93, one constructor per row of spec/opcode_table.json. -/

namespace Sys2Proof

/-- The closed enumeration of decoded instruction shapes (30_encoding.md R95). `x` and `y` are the register
selectors, `nn` the 8-bit and `nnn` the 12-bit immediate (R91); the row count `n` of `DRW` is a count. -/
inductive Instr where
  /-- `CLS` (00E0), 43_display.md R190. -/
  | cls
  /-- `RET` (00EE), 40_control_flow.md R120. -/
  | ret
  /-- `JP addr` (1NNN), R121. -/
  | jpAddr (nnn : Addr12)
  /-- `CALL addr` (2NNN), R122. -/
  | callAddr (nnn : Addr12)
  /-- `SE Vx, byte` (3XNN), R123. -/
  | seVxByte (x : Reg) (nn : Byte)
  /-- `SNE Vx, byte` (4XNN), R124. -/
  | sneVxByte (x : Reg) (nn : Byte)
  /-- `SE Vx, Vy` (5XY0), R125. -/
  | seVxVy (x y : Reg)
  /-- `LD Vx, byte` (6XNN), 41_alu.md R140. -/
  | ldVxByte (x : Reg) (nn : Byte)
  /-- `ADD Vx, byte` (7XNN), R141. -/
  | addVxByte (x : Reg) (nn : Byte)
  /-- `LD Vx, Vy` (8XY0), R142. -/
  | ldVxVy (x y : Reg)
  /-- `OR Vx, Vy` (8XY1), R143. -/
  | orVxVy (x y : Reg)
  /-- `AND Vx, Vy` (8XY2), R144. -/
  | andVxVy (x y : Reg)
  /-- `XOR Vx, Vy` (8XY3), R145. -/
  | xorVxVy (x y : Reg)
  /-- `ADD Vx, Vy` (8XY4), R146. -/
  | addVxVy (x y : Reg)
  /-- `SUB Vx, Vy` (8XY5), R147. -/
  | subVxVy (x y : Reg)
  /-- `SHR Vx {, Vy}` (8XY6), R148. -/
  | shrVxVy (x y : Reg)
  /-- `SUBN Vx, Vy` (8XY7), R149. -/
  | subnVxVy (x y : Reg)
  /-- `SHL Vx {, Vy}` (8XYE), R150. -/
  | shlVxVy (x y : Reg)
  /-- `SNE Vx, Vy` (9XY0), 40_control_flow.md R126. -/
  | sneVxVy (x y : Reg)
  /-- `LD I, addr` (ANNN), 42_index_memory.md R170. -/
  | ldIAddr (nnn : Addr12)
  /-- `JP V0, addr` (BNNN), 40_control_flow.md R128. -/
  | jpV0Addr (nnn : Addr12)
  /-- `RND Vx, byte` (CXNN), 41_alu.md R152. -/
  | rndVxByte (x : Reg) (nn : Byte)
  /-- `DRW Vx, Vy, nibble` (DXYN), 43_display.md R191. -/
  | drwVxVyNibble (x y : Reg) (n : Nat)
  /-- `SKP Vx` (EX9E), 44_keypad_timers.md R210. -/
  | skpVx (x : Reg)
  /-- `SKNP Vx` (EXA1), R211. -/
  | sknpVx (x : Reg)
  /-- `LD Vx, DT` (FX07), R213. -/
  | ldVxDt (x : Reg)
  /-- `LD Vx, K` (FX0A), R212. -/
  | ldVxK (x : Reg)
  /-- `LD DT, Vx` (FX15), R214. -/
  | ldDtVx (x : Reg)
  /-- `LD ST, Vx` (FX18), R215. -/
  | ldStVx (x : Reg)
  /-- `ADD I, Vx` (FX1E), 42_index_memory.md R171. -/
  | addIVx (x : Reg)
  /-- `LD F, Vx` (FX29), R172. -/
  | ldFVx (x : Reg)
  /-- `LD B, Vx` (FX33), R173. -/
  | ldBVx (x : Reg)
  /-- `LD [I], Vx` (FX55), R174. -/
  | ldMemVx (x : Reg)
  /-- `LD Vx, [I]` (FX65), R175. -/
  | ldVxMem (x : Reg)
  deriving DecidableEq, Repr

end Sys2Proof
end

