-- ==== Sys2Proof/WellFormed.lean ====
section
/-! DEFINITION. Which terms of `Instr` are instructions of the hardware. -/

namespace Sys2Proof

/-- An instruction is well-formed when every operand fits its field (30_encoding.md R91, R94). Register numbers
and immediates carry their bound in their type; the row count of `DRW` is a `Nat` that must fit four bits. -/
def Instr.wellFormed : Instr → Bool
  | .drwVxVyNibble _ _ n => decide (n ≤ 15)
  | .cls | .ret => true
  | .jpAddr _ | .callAddr _ | .ldIAddr _ | .jpV0Addr _ => true
  | .seVxByte _ _ | .sneVxByte _ _ | .ldVxByte _ _ | .addVxByte _ _ | .rndVxByte _ _ => true
  | .seVxVy _ _ | .sneVxVy _ _ | .ldVxVy _ _ | .orVxVy _ _ | .andVxVy _ _ | .xorVxVy _ _ => true
  | .addVxVy _ _ | .subVxVy _ _ | .shrVxVy _ _ | .subnVxVy _ _ | .shlVxVy _ _ => true
  | .skpVx _ | .sknpVx _ | .ldVxDt _ | .ldVxK _ | .ldDtVx _ | .ldStVx _ => true
  | .addIVx _ | .ldFVx _ | .ldBVx _ | .ldMemVx _ | .ldVxMem _ => true

end Sys2Proof
end

