-- ==== Sys2Proof/Decode.lean ====
section
/-! DEFINITION. The decoder, total on words and on bytes and rejecting by name, the opcode table with its masks,
and the encoder (30_encoding.md). -/

namespace Sys2Proof

/-! The fields of an instruction word (30_encoding.md R91). -/

/-- `OP = w[15:12]`. -/
def fieldOp (w : Word) : BitVec 4 := w.extractLsb' 12 4

/-- `X = w[11:8]`, a register number. -/
def fieldX (w : Word) : Reg := ⟨(w.extractLsb' 8 4).toNat, (w.extractLsb' 8 4).isLt⟩

/-- `Y = w[7:4]`, a register number. -/
def fieldY (w : Word) : Reg := ⟨(w.extractLsb' 4 4).toNat, (w.extractLsb' 4 4).isLt⟩

/-- `N = w[3:0]`. -/
def fieldN (w : Word) : BitVec 4 := w.extractLsb' 0 4

/-- `NN = w[7:0]`. -/
def fieldNN (w : Word) : Byte := w.extractLsb' 0 8

/-- `NNN = w[11:0]`. -/
def fieldNNN (w : Word) : Addr12 := w.extractLsb' 0 12

/-- The first byte of a word in memory is its high byte (20_memory.md R62). -/
def wordOfBytes (hi lo : Byte) : Word := hi ++ lo

/-- The high byte of a word, stored at the lower address (20_memory.md R62). -/
def highByte (w : Word) : Byte := w.extractLsb' 8 8

/-- The low byte of a word, stored at the higher address (20_memory.md R62). -/
def lowByte (w : Word) : Byte := w.extractLsb' 0 8

/-- Why a word is no instruction: the group of illegal words of 30_encoding.md R97 that it lies in. -/
inductive IllegalGroup where
  /-- `0NNN` other than 00E0 and 00EE, the conventional machine-code call among them. -/
  | op0
  /-- `5XYN` with `N` nonzero. -/
  | op5
  /-- `8XYN` with `N` in 8..D or F. -/
  | op8
  /-- `9XYN` with `N` nonzero. -/
  | op9
  /-- `EXNN` with `NN` neither 9E nor A1. -/
  | opE
  /-- `FXNN` with `NN` none of the nine listed. -/
  | opF
  deriving DecidableEq, Repr

/-- Group 8, dispatched on `N` (30_encoding.md R93, R95). -/
def decodeGroup8 (n : Nat) (x y : Reg) : Except IllegalGroup Instr :=
  match n with
  | 0x0 => .ok (.ldVxVy x y)
  | 0x1 => .ok (.orVxVy x y)
  | 0x2 => .ok (.andVxVy x y)
  | 0x3 => .ok (.xorVxVy x y)
  | 0x4 => .ok (.addVxVy x y)
  | 0x5 => .ok (.subVxVy x y)
  | 0x6 => .ok (.shrVxVy x y)
  | 0x7 => .ok (.subnVxVy x y)
  | 0xE => .ok (.shlVxVy x y)
  | _ => .error .op8

/-- Group E, dispatched on `NN`. -/
def decodeGroupE (nn : Nat) (x : Reg) : Except IllegalGroup Instr :=
  match nn with
  | 0x9E => .ok (.skpVx x)
  | 0xA1 => .ok (.sknpVx x)
  | _ => .error .opE

/-- Group F, dispatched on `NN`. -/
def decodeGroupF (nn : Nat) (x : Reg) : Except IllegalGroup Instr :=
  match nn with
  | 0x07 => .ok (.ldVxDt x)
  | 0x0A => .ok (.ldVxK x)
  | 0x15 => .ok (.ldDtVx x)
  | 0x18 => .ok (.ldStVx x)
  | 0x1E => .ok (.addIVx x)
  | 0x29 => .ok (.ldFVx x)
  | 0x33 => .ok (.ldBVx x)
  | 0x55 => .ok (.ldMemVx x)
  | 0x65 => .ok (.ldVxMem x)
  | _ => .error .opF

/-- `Decode(w)` of 30_encoding.md R95, in its nested form: total, and a function of the word alone. The last arm is
`OP` = F, the only value of a four-bit field left. -/
def decodeWord (w : Word) : Except IllegalGroup Instr :=
  match (fieldOp w).toNat with
  | 0x0 => if w = 0x00E0 then .ok .cls else if w = 0x00EE then .ok .ret else .error .op0
  | 0x1 => .ok (.jpAddr (fieldNNN w))
  | 0x2 => .ok (.callAddr (fieldNNN w))
  | 0x3 => .ok (.seVxByte (fieldX w) (fieldNN w))
  | 0x4 => .ok (.sneVxByte (fieldX w) (fieldNN w))
  | 0x5 => if fieldN w = 0 then .ok (.seVxVy (fieldX w) (fieldY w)) else .error .op5
  | 0x6 => .ok (.ldVxByte (fieldX w) (fieldNN w))
  | 0x7 => .ok (.addVxByte (fieldX w) (fieldNN w))
  | 0x8 => decodeGroup8 (fieldN w).toNat (fieldX w) (fieldY w)
  | 0x9 => if fieldN w = 0 then .ok (.sneVxVy (fieldX w) (fieldY w)) else .error .op9
  | 0xA => .ok (.ldIAddr (fieldNNN w))
  | 0xB => .ok (.jpV0Addr (fieldNNN w))
  | 0xC => .ok (.rndVxByte (fieldX w) (fieldNN w))
  | 0xD => .ok (.drwVxVyNibble (fieldX w) (fieldY w) (fieldN w).toNat)
  | 0xE => decodeGroupE (fieldNN w).toNat (fieldX w)
  | _ => decodeGroupF (fieldNN w).toNat (fieldX w)

/-- Why a byte sequence does not begin with an instruction. -/
inductive DecodeError where
  /-- Fewer than two bytes (30_encoding.md R90: every instruction is two bytes). -/
  | truncated
  /-- The first word is illegal (30_encoding.md R97). -/
  | illegal (g : IllegalGroup) (w : Word)
  deriving DecidableEq, Repr

/-- The instruction at the head of a byte sequence, with the bytes that follow it (30_encoding.md R90). -/
def decodeBytes : List Byte → Except DecodeError (Instr × List Byte)
  | hi :: lo :: rest =>
    match decodeWord (wordOfBytes hi lo) with
    | .ok i => .ok (i, rest)
    | .error g => .error (.illegal g (wordOfBytes hi lo))
  | [_] => .error .truncated
  | [] => .error .truncated

/-- The two bytes of a word in the order memory holds them. -/
def bytesOfWord (w : Word) : List Byte := [highByte w, lowByte w]

/-- A row of the opcode map (30_encoding.md R93): a word `w` is the row's instruction when `w & mask = pattern`. -/
structure OpcodeRow where
  mnemonic : String
  mask : Word
  pattern : Word
  deriving DecidableEq, Repr

/-- `(w & mask) == match` (30_encoding.md R93). -/
def rowMatches (r : OpcodeRow) (w : Word) : Bool := (w &&& r.mask) == r.pattern

/-- The row of spec/opcode_table.json that an instruction belongs to. -/
def opcodeRow : Instr → OpcodeRow
  | .cls => ⟨"CLS", 0xFFFF, 0x00E0⟩
  | .ret => ⟨"RET", 0xFFFF, 0x00EE⟩
  | .jpAddr _ => ⟨"JP_addr", 0xF000, 0x1000⟩
  | .callAddr _ => ⟨"CALL_addr", 0xF000, 0x2000⟩
  | .seVxByte _ _ => ⟨"SE_Vx__byte", 0xF000, 0x3000⟩
  | .sneVxByte _ _ => ⟨"SNE_Vx__byte", 0xF000, 0x4000⟩
  | .seVxVy _ _ => ⟨"SE_Vx__Vy", 0xF00F, 0x5000⟩
  | .ldVxByte _ _ => ⟨"LD_Vx__byte", 0xF000, 0x6000⟩
  | .addVxByte _ _ => ⟨"ADD_Vx__byte", 0xF000, 0x7000⟩
  | .ldVxVy _ _ => ⟨"LD_Vx__Vy", 0xF00F, 0x8000⟩
  | .orVxVy _ _ => ⟨"OR_Vx__Vy", 0xF00F, 0x8001⟩
  | .andVxVy _ _ => ⟨"AND_Vx__Vy", 0xF00F, 0x8002⟩
  | .xorVxVy _ _ => ⟨"XOR_Vx__Vy", 0xF00F, 0x8003⟩
  | .addVxVy _ _ => ⟨"ADD_Vx__Vy", 0xF00F, 0x8004⟩
  | .subVxVy _ _ => ⟨"SUB_Vx__Vy", 0xF00F, 0x8005⟩
  | .shrVxVy _ _ => ⟨"SHR_Vx____Vy", 0xF00F, 0x8006⟩
  | .subnVxVy _ _ => ⟨"SUBN_Vx__Vy", 0xF00F, 0x8007⟩
  | .shlVxVy _ _ => ⟨"SHL_Vx____Vy", 0xF00F, 0x800E⟩
  | .sneVxVy _ _ => ⟨"SNE_Vx__Vy", 0xF00F, 0x9000⟩
  | .ldIAddr _ => ⟨"LD_I__addr", 0xF000, 0xA000⟩
  | .jpV0Addr _ => ⟨"JP_V0__addr", 0xF000, 0xB000⟩
  | .rndVxByte _ _ => ⟨"RND_Vx__byte", 0xF000, 0xC000⟩
  | .drwVxVyNibble _ _ _ => ⟨"DRW_Vx__Vy__nibble", 0xF000, 0xD000⟩
  | .skpVx _ => ⟨"SKP_Vx", 0xF0FF, 0xE09E⟩
  | .sknpVx _ => ⟨"SKNP_Vx", 0xF0FF, 0xE0A1⟩
  | .ldVxDt _ => ⟨"LD_Vx__DT", 0xF0FF, 0xF007⟩
  | .ldVxK _ => ⟨"LD_Vx__K", 0xF0FF, 0xF00A⟩
  | .ldDtVx _ => ⟨"LD_DT__Vx", 0xF0FF, 0xF015⟩
  | .ldStVx _ => ⟨"LD_ST__Vx", 0xF0FF, 0xF018⟩
  | .addIVx _ => ⟨"ADD_I__Vx", 0xF0FF, 0xF01E⟩
  | .ldFVx _ => ⟨"LD_F__Vx", 0xF0FF, 0xF029⟩
  | .ldBVx _ => ⟨"LD_B__Vx", 0xF0FF, 0xF033⟩
  | .ldMemVx _ => ⟨"LD__I___Vx", 0xF0FF, 0xF055⟩
  | .ldVxMem _ => ⟨"LD_Vx___I", 0xF0FF, 0xF065⟩

/-- One instruction of each shape of groups 0 to 7, in the table's order. -/
def shapesLow : List Instr :=
  [.cls, .ret, .jpAddr 0, .callAddr 0, .seVxByte 0 0, .sneVxByte 0 0, .seVxVy 0 0, .ldVxByte 0 0, .addVxByte 0 0]

/-- One instruction of each shape of groups 8 to D. -/
def shapesMid : List Instr :=
  [.ldVxVy 0 0, .orVxVy 0 0, .andVxVy 0 0, .xorVxVy 0 0, .addVxVy 0 0, .subVxVy 0 0, .shrVxVy 0 0, .subnVxVy 0 0,
   .shlVxVy 0 0, .sneVxVy 0 0, .ldIAddr 0, .jpV0Addr 0, .rndVxByte 0 0, .drwVxVyNibble 0 0 0]

/-- One instruction of each shape of groups E and F. -/
def shapesHigh : List Instr :=
  [.skpVx 0, .sknpVx 0, .ldVxDt 0, .ldVxK 0, .ldDtVx 0, .ldStVx 0, .addIVx 0, .ldFVx 0, .ldBVx 0, .ldMemVx 0,
   .ldVxMem 0]

/-- The complete opcode map, 34 rows in the order of 30_encoding.md R93. -/
def opcodeTable : List OpcodeRow := (shapesLow ++ shapesMid ++ shapesHigh).map opcodeRow

/-! The six formats (30_encoding.md R92), each laying its fields out from bit 15 down. -/

/-- Format A: `OP NNN`. -/
def formatA (op : BitVec 4) (nnn : Addr12) : Word := op ++ nnn

/-- Formats XB and X: `OP X NN`. -/
def formatXB (op : BitVec 4) (x : Reg) (nn : Byte) : Word := op ++ (BitVec.ofNat 4 x.val ++ nn : BitVec 12)

/-- Formats XY and XYN: `OP X Y N`. -/
def formatXYN (op : BitVec 4) (x y : Reg) (n : BitVec 4) : Word :=
  op ++ (BitVec.ofNat 4 x.val ++ (BitVec.ofNat 4 y.val ++ n : BitVec 8) : BitVec 12)

/-- The word of a well-formed instruction (30_encoding.md R92, R93). -/
def encode : Instr → Word
  | .cls => 0x00E0
  | .ret => 0x00EE
  | .jpAddr nnn => formatA 0x1 nnn
  | .callAddr nnn => formatA 0x2 nnn
  | .seVxByte x nn => formatXB 0x3 x nn
  | .sneVxByte x nn => formatXB 0x4 x nn
  | .seVxVy x y => formatXYN 0x5 x y 0x0
  | .ldVxByte x nn => formatXB 0x6 x nn
  | .addVxByte x nn => formatXB 0x7 x nn
  | .ldVxVy x y => formatXYN 0x8 x y 0x0
  | .orVxVy x y => formatXYN 0x8 x y 0x1
  | .andVxVy x y => formatXYN 0x8 x y 0x2
  | .xorVxVy x y => formatXYN 0x8 x y 0x3
  | .addVxVy x y => formatXYN 0x8 x y 0x4
  | .subVxVy x y => formatXYN 0x8 x y 0x5
  | .shrVxVy x y => formatXYN 0x8 x y 0x6
  | .subnVxVy x y => formatXYN 0x8 x y 0x7
  | .shlVxVy x y => formatXYN 0x8 x y 0xE
  | .sneVxVy x y => formatXYN 0x9 x y 0x0
  | .ldIAddr nnn => formatA 0xA nnn
  | .jpV0Addr nnn => formatA 0xB nnn
  | .rndVxByte x nn => formatXB 0xC x nn
  | .drwVxVyNibble x y n => formatXYN 0xD x y (BitVec.ofNat 4 n)
  | .skpVx x => formatXB 0xE x 0x9E
  | .sknpVx x => formatXB 0xE x 0xA1
  | .ldVxDt x => formatXB 0xF x 0x07
  | .ldVxK x => formatXB 0xF x 0x0A
  | .ldDtVx x => formatXB 0xF x 0x15
  | .ldStVx x => formatXB 0xF x 0x18
  | .addIVx x => formatXB 0xF x 0x1E
  | .ldFVx x => formatXB 0xF x 0x29
  | .ldBVx x => formatXB 0xF x 0x33
  | .ldMemVx x => formatXB 0xF x 0x55
  | .ldVxMem x => formatXB 0xF x 0x65

/-- The first instruction word of a table word: bit 0 of `w` is bit 0 of the first word, bits from `nbits` up are 0. -/
def tableWord (nbits w : Nat) : Word := BitVec.ofNat 16 (w % 2 ^ nbits)

/-- What the decoder reads from a word numbered as spec/opcode_table.json numbers its bits, laid out as two bytes in
memory order. -/
def decodeTableWord (nbits w : Nat) : Option Instr :=
  match decodeBytes (bytesOfWord (tableWord nbits w)) with
  | .ok (i, _) => some i
  | .error _ => none

end Sys2Proof
end

