-- ==== Sys2Proof/Machine/State.lean ====
section
/-! DEFINITION. The state of the block (10_state.md section 1), its fatal errors, and the state after reset. -/

namespace Sys2Proof.Machine

/-- The five fatal errors of 60_exceptions.md R261, each with the information that rule records. The step that raises
one latches it in `ERR` (R262); every later step answers it as the terminal fault (R268; DESIGN CHOICE,
log entry 2). -/
inductive Fault where
  /-- Code 1. Raised by the fetch stage when `PC` >= 0xFFF (20_memory.md R65). Safe: the machine stops as R263 asks. -/
  | fetchOutOfBounds (pc0 : Word)
  /-- Code 2. Raised by the decode stage when the word matches no row (30_encoding.md R97). Safe. -/
  | illegalOpcode (pc0 : Word) (w : Word)
  /-- Code 3. Raised by `CALL` when 16 return addresses are held (40_control_flow.md R122). Safe. -/
  | stackOverflow (pc0 : Word)
  /-- Code 4. Raised by `RET` when the stack is empty (40_control_flow.md R120). Safe. -/
  | stackUnderflow (pc0 : Word)
  /-- Code 5. Raised by `DRW`, `LD B`, `LD [I]` and `LD Vx, [I]` when a byte address exceeds 0xFFF (20_memory.md R66);
  it records the value of `I`. Safe. -/
  | memoryOutOfBounds (pc0 : Word) (i : Word)
  deriving DecidableEq, Repr

/-- Why the model gives a step no meaning. -/
inductive Refusal where
  /-- An instruction without a meaning, rejected by name in exec's arm. No arm raises it. Safe. -/
  | notModelled (mnemonic : String)
  /-- `CALL` or `RET` in a state whose `SP` holds 17..255, which 10_state.md R29 says never occurs (DEDUCED, log entry 3).
  Safe: no state that the invariant of Safety.lean holds of raises it. -/
  | stackPointerOutOfRange
  deriving DecidableEq, Repr

/-- The quirk register `Q` (10_state.md R36). -/
structure Quirks where
  shift : Bool
  loadstore : Bool
  jump : Bool
  deriving DecidableEq, Repr

/-- Memory as the list of the bytes that differ from the reset contents (10_state.md R33, R41). -/
abbrev Memory := List Host.Cell

/-- The display buffer: 32 rows, column `x` of a row at its bit `x` (10_state.md R34). -/
abbrev Frame := Vector (BitVec 64) 32

/-- The complete state of the block (10_state.md R20 to R39). -/
structure State where
  /-- V0 to VF (R20). -/
  v : Vector Byte 16
  /-- The index register (R27). -/
  i : Word
  /-- The program counter (R24). -/
  pc : Word
  /-- The number of return addresses held (R29). -/
  sp : Byte
  /-- The return stack (R28). -/
  stack : Vector Word 16
  /-- The delay timer (R30). -/
  dt : Byte
  /-- The sound timer (R31). -/
  st : Byte
  /-- Main memory (R33). -/
  mem : Memory
  /-- The display buffer (R34). -/
  fb : Frame
  /-- The keypad latch (R39). -/
  key : Vector Bool 16
  /-- The quirk configuration (R36). -/
  q : Quirks
  /-- The error latch (R37) with the information of 60_exceptions.md R261. -/
  err : Option Fault
  /-- The MODEL'S own field: how many bytes the random source has supplied (41_alu.md R153; DESIGN CHOICE, log entry 1). -/
  draws : Nat
  deriving DecidableEq, Repr

/-- The state at power-on (10_state.md R41, 70_reset_and_hazards.md R301). Memory lists nothing: every byte holds its
reset contents, the font included. -/
def State.reset : State where
  v := Vector.replicate 16 0
  i := 0
  pc := 0x200
  sp := 0
  stack := Vector.replicate 16 0
  dt := 0
  st := 0
  mem := []
  fb := Vector.replicate 32 0
  key := Vector.replicate 16 false
  q := ⟨false, false, false⟩
  err := none
  draws := 0

end Sys2Proof.Machine
end

