-- ==== Sys2Proof/Machine/Memory.lean ====
section
/-! DEFINITION. Main memory: the font, the reset contents, reading and writing bytes in canonical form. -/

namespace Sys2Proof.Machine

/-- Glyphs 0 to 7 (10_state.md R43). -/
def fontLow : List Byte :=
  [0xF0, 0x90, 0x90, 0x90, 0xF0,
   0x20, 0x60, 0x20, 0x20, 0x70,
   0xF0, 0x10, 0xF0, 0x80, 0xF0,
   0xF0, 0x10, 0xF0, 0x10, 0xF0,
   0x90, 0x90, 0xF0, 0x10, 0x10,
   0xF0, 0x80, 0xF0, 0x10, 0xF0,
   0xF0, 0x80, 0xF0, 0x90, 0xF0,
   0xF0, 0x10, 0x20, 0x40, 0x40]

/-- Glyphs 8 to F (10_state.md R43). -/
def fontHigh : List Byte :=
  [0xF0, 0x90, 0xF0, 0x90, 0xF0,
   0xF0, 0x90, 0xF0, 0x10, 0xF0,
   0xF0, 0x90, 0xF0, 0x90, 0x90,
   0xE0, 0x90, 0xE0, 0x90, 0xE0,
   0xF0, 0x80, 0x80, 0x80, 0xF0,
   0xE0, 0x90, 0x90, 0x90, 0xE0,
   0xF0, 0x80, 0xF0, 0x80, 0xF0,
   0xF0, 0x80, 0xF0, 0x80, 0x80]

/-- The 80 font bytes `FONT` (10_state.md R43). -/
def font : List Byte := fontLow ++ fontHigh

/-- What an unlisted address reads as: the byte reset leaves there (10_state.md R41). -/
def unlisted (a : Nat) : Byte :=
  if Config.fontBase ≤ a then font.getD (a - Config.fontBase) 0 else 0

/-- `MEM[a]` for an address whose bounds the caller has checked. -/
def Memory.read : Memory → Nat → Byte
  | [], a => unlisted a
  | (k, c) :: rest, a => if k = a then c else Memory.read rest a

/-- The cell an address needs: none when it holds its reset contents. -/
def cellFor (a : Nat) (b : Byte) : Memory := if b = unlisted a then [] else [(a, b)]

/-- `MEM[a] <- b` (20_memory.md R64), keeping the canonical form. -/
def Memory.write : Memory → Nat → Byte → Memory
  | [], a, b => cellFor a b
  | (k, c) :: rest, a, b =>
    if a < k then cellFor a b ++ (k, c) :: rest
    else if a = k then cellFor a b ++ rest
    else (k, c) :: Memory.write rest a b

/-- The bytes at `a`, `a + 1`, ..., `a + n - 1` (20_memory.md R63). -/
def Memory.readBytes (m : Memory) (a n : Nat) : List Byte := (List.range n).map fun k => Memory.read m (a + k)

/-- The bytes of `bs` stored at ascending addresses from `a` (20_memory.md R64, once per byte). -/
def Memory.writeBytes (m : Memory) (a : Nat) : List Byte → Memory
  | [] => m
  | b :: bs => Memory.writeBytes (Memory.write m a b) (a + 1) bs

/-- The canonical form: addresses strictly rising and inside memory, and no cell equal to its reset contents. -/
abbrev Memory.wf (m : Memory) : Prop :=
  m.Pairwise (fun x y => x.1 < y.1) ∧ ∀ c ∈ m, c.1 < Config.memSize ∧ c.2 ≠ unlisted c.1

/-- All `n` addresses from `a` lie in memory, on unbounded integers (20_memory.md R63, R66); no address is formed when
`n` is 0 (43_display.md R191). -/
def inBounds (a n : Nat) : Bool := n == 0 || decide (a + n - 1 ≤ Config.lastAddr)

end Sys2Proof.Machine
end

