-- ==== Sys2Proof/Machine/Ops.lean ====
section
/-! DEFINITION. The named operations over the registers, the stack, the display and the fetch, and raising a fatal
error, once for all instructions. -/

namespace Sys2Proof.Machine

/-- The outcome of an instruction or a step. -/
abbrev Out := Host.Outcome State Fault Refusal

/-- `V[x]` (10_state.md R20). -/
def State.reg (s : State) (x : Reg) : Byte := s.v[x]

/-- `V[x] <- b`. -/
def State.setV (s : State) (x : Reg) (b : Byte) : State := { s with v := s.v.set x b }

/-- All of V0 to VF at once. -/
def State.setVs (s : State) (vs : Vector Byte 16) : State := { s with v := vs }

/-- `I <- w`. -/
def State.setI (s : State) (w : Word) : State := { s with i := w }

/-- `PC <- w`. -/
def State.setPc (s : State) (w : Word) : State := { s with pc := w }

/-- `SP <- b`. -/
def State.setSp (s : State) (b : Byte) : State := { s with sp := b }

/-- `STACK[k] <- w`. -/
def State.setStack (s : State) (k : Reg) (w : Word) : State := { s with stack := s.stack.set k w }

/-- `DT <- b`. -/
def State.setDt (s : State) (b : Byte) : State := { s with dt := b }

/-- `ST <- b`. -/
def State.setSt (s : State) (b : Byte) : State := { s with st := b }

/-- The memory replaced. -/
def State.setMem (s : State) (m : Memory) : State := { s with mem := m }

/-- The display replaced. -/
def State.setFb (s : State) (f : Frame) : State := { s with fb := f }

/-- `KEY[k] <- b`. -/
def State.setKeyBit (s : State) (k : Reg) (b : Bool) : State := { s with key := s.key.set k b }

/-- `Q <- q`. -/
def State.setQ (s : State) (q : Quirks) : State := { s with q := q }

/-- `ERR <- e`. -/
def State.setErr (s : State) (e : Option Fault) : State := { s with err := e }

/-- One more byte taken from the random source (41_alu.md R152: exactly one per executed `RND`). -/
def State.countDraw (s : State) : State := { s with draws := s.draws + 1 }

/-- `MEM[a]`. -/
def State.byteAt (s : State) (a : Nat) : Byte := Memory.read s.mem a

/-- `KEY[k]`. -/
def State.keyDown (s : State) (k : Reg) : Bool := s.key[k]

/-! Taking a fatal error, the machine's only exception, and leaving it. -/

/-- `raise E` (60_exceptions.md R262): `ERR` latches the error. Nothing else: no vector, no saved `PC`, no mode. -/
def State.raise (s : State) (e : Fault) : State := s.setErr (some e)

/-- The address of the executing instruction, `pc0`: the step has advanced `PC` by 2 (46_host_operations.md R232). -/
def State.pc0 (s : State) : Word := s.pc - 2

/-- The host operation `reset` (70_reset_and_hazards.md R300), the only way out of a latched error (R268, R273):
everything but `Q` returns to its reset value; the random source goes on (DESIGN CHOICE, log entry 1). -/
def State.restart (s : State) : State := { State.reset with q := s.q, draws := s.draws }

/-- A data access to the `n` bytes at `I`: the whole range is checked before `k` does anything (20_memory.md R66). -/
def State.withRange (s : State) (n : Nat) (k : Out) : Out :=
  if inBounds s.i.toNat n then k else .next (s.raise (.memoryOutOfBounds s.pc0 s.i))

/-! Fetch and control transfer. -/

/-- `Fetch()` of 20_memory.md R65: the big-endian word at `PC`, or none when `PC` or `PC + 1` exceeds 0xFFF. -/
def State.fetch (s : State) : Option Word :=
  if s.pc.toNat + 1 ≤ Config.lastAddr then
    some (wordOfBytes (s.byteAt s.pc.toNat) (s.byteAt (s.pc.toNat + 1)))
  else none

/-- `PC <- PC + 2`, before the body executes (46_host_operations.md R232) and once more when a skip is taken
(40_control_flow.md R127). -/
def State.advance (s : State) : State := s.setPc (s.pc + 2)

/-- A skip: one instruction is passed over when the condition holds (40_control_flow.md R127). -/
def State.skipIf (s : State) (c : Bool) : State := if c then s.advance else s

/-- Where the stack is written next, when `SP` < 16 (10_state.md R29). -/
def State.freeCell (s : State) : Option Reg := if h : s.sp.toNat < 16 then some ⟨s.sp.toNat, h⟩ else none

/-- The last occupied stack cell, when `SP` is in 1..16 (10_state.md R29). -/
def State.topCell (s : State) : Option Reg :=
  if h : 1 ≤ s.sp.toNat ∧ s.sp.toNat ≤ 16 then some ⟨s.sp.toNat - 1, by omega⟩ else none

/-- `STACK[k]`. -/
def State.stackAt (s : State) (k : Reg) : Word := s.stack[k]

/-! The display buffer (10_state.md R34). -/

/-- A display with every pixel off. -/
def Frame.blank : Frame := Vector.replicate 32 0

/-- `FB[y][x]`; off outside the display. -/
def Frame.pixel (f : Frame) (x y : Nat) : Bool := if h : y < 32 then f[y].getLsbD x else false

/-- `FB[y][x] <- FB[y][x] ^ 1`. -/
def Frame.toggle (f : Frame) (x y : Nat) : Frame := if h : y < 32 then f.set y (f[y] ^^^ BitVec.twoPow 64 x) else f

/-- The smallest pressed key, if any (44_keypad_timers.md R212). -/
def State.firstKey (s : State) : Option Reg := (List.finRange 16).find? fun k => s.keyDown k

/-- `V[k] <- MEM[a + k]` for `k` below `n`, ascending (42_index_memory.md R175). -/
def loadRegs (m : Memory) (a : Nat) : Nat → Vector Byte 16 → Vector Byte 16
  | 0, vs => vs
  | n + 1, vs => (loadRegs m a n vs).setIfInBounds n (Memory.read m (a + n))

end Sys2Proof.Machine
end

