-- ==== Sys2Proof/Machine/Flags.lean ====
section
/-! DEFINITION. The flag VF: the value each of the seven instructions of 10_state.md R22 gives it, and the order of
the writes (R23). -/

namespace Sys2Proof.Machine

/-- A flag as the byte VF holds: 0 or 1 (10_state.md R22). -/
def flagByte (f : Bool) : Byte := if f then 1 else 0

/-- `V[0xF] <- flag`. -/
def State.setFlag (s : State) (f : Bool) : State := s.setV vf (flagByte f)

/-- The result register first, VF last (10_state.md R23). -/
def State.setVWithFlag (s : State) (x : Reg) (b : Byte) (f : Bool) : State := (s.setV x b).setFlag f

/-- Carry of `ADD Vx, Vy`: the unbounded sum exceeds 255 (41_alu.md R146). -/
def carryFlag (a b : Byte) : Bool := decide (255 < a.toNat + b.toNat)

/-- No borrow of minuend `a` and subtrahend `b` (41_alu.md R147, R149). -/
def noBorrowFlag (a b : Byte) : Bool := decide (b.toNat ≤ a.toNat)

/-- The bit `SHR` shifts out (41_alu.md R148). -/
def shrFlag (b : Byte) : Bool := b.getLsbD 0

/-- The bit `SHL` shifts out (41_alu.md R150). -/
def shlFlag (b : Byte) : Bool := b.getLsbD 7

/-- The unbounded sum `I + V[X]` exceeds 0x0FFF (42_index_memory.md R171). -/
def indexFlag (i : Word) (b : Byte) : Bool := decide (0x0FFF < i.toNat + b.toNat)

end Sys2Proof.Machine
end

