-- ==== Sys2Proof/Machine/Operands.lean ====
section
/-! DEFINITION. The operand forms: immediates, the quirk-selected operands, the effective addresses. -/

namespace Sys2Proof.Machine

/-- `zext_16(NNN)` (30_encoding.md R94). -/
def zextAddr (nnn : Addr12) : Word := nnn.setWidth 16

/-- `zext_16` of a register byte (40_control_flow.md R128). -/
def zextByte (b : Byte) : Word := b.setWidth 16

/-- The low nibble of `V[X]`, which selects a key or a glyph (44_keypad_timers.md R210, 42_index_memory.md R172). -/
def lowNibble (b : Byte) : Reg := ⟨(b.extractLsb' 0 4).toNat, (b.extractLsb' 0 4).isLt⟩

/-- The top nibble of `NNN` as a register selector (40_control_flow.md R128). -/
def topNibble (nnn : Addr12) : Reg := ⟨(nnn.extractLsb' 8 4).toNat, (nnn.extractLsb' 8 4).isLt⟩

/-- The operand a shift moves: `V[Y]`, or `V[X]` under `Q.shift` (41_alu.md R148, R150). -/
def State.shiftOperand (s : State) (x y : Reg) : Byte := if s.q.shift then s.reg x else s.reg y

/-- The register `JP V0, addr` adds: V0, or the one `NNN`'s top nibble names under `Q.jump` (40_control_flow.md R128). -/
def State.jumpOffset (s : State) (nnn : Addr12) : Byte := if s.q.jump then s.reg (topNibble nnn) else s.reg 0

/-- The address of the glyph of a digit, 5 bytes each from 0x050 (42_index_memory.md R172). -/
def glyphAddr (d : Reg) : Word := BitVec.ofNat 16 (Config.fontBase + 5 * d.val)

/-- The hundreds, tens and ones digits of a byte (42_index_memory.md R173). -/
def bcdDigits (b : Byte) : List Byte :=
  [BitVec.ofNat 8 (b.toNat / 100), BitVec.ofNat 8 (b.toNat / 10 % 10), BitVec.ofNat 8 (b.toNat % 10)]

/-- V0 to VX, the registers `LD [I], Vx` stores (42_index_memory.md R174). -/
def State.regsUpTo (s : State) (x : Reg) : List Byte := s.v.toList.take (x.val + 1)

/-- `I` after a dump or a load of V0 to VX: the transfer count is added under `Q.loadstore` (42_index_memory.md R174). -/
def State.indexAfter (s : State) (x : Reg) : Word :=
  if s.q.loadstore then BitVec.ofNat 16 (s.i.toNat + x.val + 1) else s.i

end Sys2Proof.Machine
end

