-- ==== Sys2Proof/Machine/Alu.lean ====
section
/-! DEFINITION. The register load, arithmetic, bitwise, shift and random instructions (41_alu.md). -/

namespace Sys2Proof.Machine

/-- `LD Vx, byte` (R140). -/
def execLdVxByte (x : Reg) (nn : Byte) (s : State) : Out := .next (s.setV x nn)

/-- `ADD Vx, byte` (R141): wraps, no carry. -/
def execAddVxByte (x : Reg) (nn : Byte) (s : State) : Out := .next (s.setV x (s.reg x + nn))

/-- `LD Vx, Vy` (R142). -/
def execLdVxVy (x y : Reg) (s : State) : Out := .next (s.setV x (s.reg y))

/-- `OR Vx, Vy` (R143). -/
def execOrVxVy (x y : Reg) (s : State) : Out := .next (s.setV x (s.reg x ||| s.reg y))

/-- `AND Vx, Vy` (R144). -/
def execAndVxVy (x y : Reg) (s : State) : Out := .next (s.setV x (s.reg x &&& s.reg y))

/-- `XOR Vx, Vy` (R145). -/
def execXorVxVy (x y : Reg) (s : State) : Out := .next (s.setV x (s.reg x ^^^ s.reg y))

/-- `ADD Vx, Vy` (R146). -/
def execAddVxVy (x y : Reg) (s : State) : Out :=
  .next (s.setVWithFlag x (s.reg x + s.reg y) (carryFlag (s.reg x) (s.reg y)))

/-- `SUB Vx, Vy` (R147): `V[X]` is the minuend. -/
def execSubVxVy (x y : Reg) (s : State) : Out :=
  .next (s.setVWithFlag x (s.reg x - s.reg y) (noBorrowFlag (s.reg x) (s.reg y)))

/-- `SHR Vx {, Vy}` (R148). -/
def execShrVxVy (x y : Reg) (s : State) : Out :=
  .next (s.setVWithFlag x (s.shiftOperand x y >>> 1) (shrFlag (s.shiftOperand x y)))

/-- `SUBN Vx, Vy` (R149): `V[Y]` is the minuend. -/
def execSubnVxVy (x y : Reg) (s : State) : Out :=
  .next (s.setVWithFlag x (s.reg y - s.reg x) (noBorrowFlag (s.reg y) (s.reg x)))

/-- `SHL Vx {, Vy}` (R150). -/
def execShlVxVy (x y : Reg) (s : State) : Out :=
  .next (s.setVWithFlag x (s.shiftOperand x y <<< 1) (shlFlag (s.shiftOperand x y)))

/-- `RND Vx, byte` (R152, R153): the drawn byte is a free value (log entry 1). -/
def execRndVxByte (x : Reg) (nn : Byte) (s : State) : Out :=
  .next ((s.setV x (Config.randomByte s.draws &&& nn)).countDraw)

end Sys2Proof.Machine
end

