-- ==== Sys2Proof/Machine/Control.lean ====
section
/-! DEFINITION. The control-flow instructions (40_control_flow.md). `PC` already holds `pc0 + 2` (R232). -/

namespace Sys2Proof.Machine

/-- `RET` (R120). -/
def execRet (s : State) : Out :=
  if s.sp = 0 then .next (s.raise (.stackUnderflow s.pc0))
  else
    match s.topCell with
    | some k => .next ((s.setSp (s.sp - 1)).setPc (s.stackAt k))
    | none => .refused .stackPointerOutOfRange

/-- `JP addr` (R121). -/
def execJpAddr (nnn : Addr12) (s : State) : Out := .next (s.setPc (zextAddr nnn))

/-- `CALL addr` (R122): the pushed value is the advanced `PC`. -/
def execCallAddr (nnn : Addr12) (s : State) : Out :=
  if s.sp = 16 then .next (s.raise (.stackOverflow s.pc0))
  else
    match s.freeCell with
    | some k => .next (((s.setStack k s.pc).setSp (s.sp + 1)).setPc (zextAddr nnn))
    | none => .refused .stackPointerOutOfRange

/-- `SE Vx, byte` (R123). -/
def execSeVxByte (x : Reg) (nn : Byte) (s : State) : Out := .next (s.skipIf (s.reg x == nn))

/-- `SNE Vx, byte` (R124). -/
def execSneVxByte (x : Reg) (nn : Byte) (s : State) : Out := .next (s.skipIf (s.reg x != nn))

/-- `SE Vx, Vy` (R125). -/
def execSeVxVy (x y : Reg) (s : State) : Out := .next (s.skipIf (s.reg x == s.reg y))

/-- `SNE Vx, Vy` (R126). -/
def execSneVxVy (x y : Reg) (s : State) : Out := .next (s.skipIf (s.reg x != s.reg y))

/-- `JP V0, addr` (R128): `NNN` keeps all 12 bits and the sum is not masked. -/
def execJpV0Addr (nnn : Addr12) (s : State) : Out :=
  .next (s.setPc (zextAddr nnn + zextByte (s.jumpOffset nnn)))

end Sys2Proof.Machine
end

