-- ==== Sys2Proof/Machine/Display.lean ====
section
/-! DEFINITION. The display instructions (43_display.md). -/

namespace Sys2Proof.Machine

/-- `CLS` (R190). -/
def execCls (s : State) : Out := .next (s.setFb Frame.blank)

/-- One bit of a sprite row drawn on display row `y`: bit 7 is the leftmost, the column wraps within the row, and a
pixel that was on makes a collision (R191). -/
def drawBit (b : Byte) (x0 y : Nat) (d : Frame × Bool) (c : Nat) : Frame × Bool :=
  if b.getLsbD (7 - c) then
    (Frame.toggle d.1 ((x0 + c) % 64) y, d.2 || Frame.pixel d.1 ((x0 + c) % 64) y)
  else d

/-- The eight bits of a sprite row, left to right (R191). -/
def drawRow (b : Byte) (x0 y : Nat) (d : Frame × Bool) : Frame × Bool := (List.range 8).foldl (drawBit b x0 y) d

/-- The rows of a sprite from display row `y` down; rows below row 31 are dropped (R191). -/
def drawRows (x0 : Nat) : List Byte → Nat → Frame × Bool → Frame × Bool
  | [], _, d => d
  | b :: bs, y, d => drawRows x0 bs (y + 1) (if y ≤ 31 then drawRow b x0 y d else d)

/-- The display and the collision that `DRW` leaves (R191): the start coordinates are `V[X] mod 64`, `V[Y] mod 32`. -/
def State.drawn (s : State) (x y : Reg) (n : Nat) : Frame × Bool :=
  drawRows ((s.reg x).toNat % 64) (Memory.readBytes s.mem s.i.toNat n) ((s.reg y).toNat % 32) (s.fb, false)

/-- `DRW Vx, Vy, nibble` (R191): VF is written last. -/
def execDrwVxVyNibble (x y : Reg) (n : Nat) (s : State) : Out :=
  s.withRange n (.next ((s.setFb (s.drawn x y n).1).setFlag (s.drawn x y n).2))

end Sys2Proof.Machine
end

