-- ==== Sys2Proof/Machine/Index.lean ====
section
/-! DEFINITION. The index-register, BCD, register dump and register load instructions (42_index_memory.md). -/

namespace Sys2Proof.Machine

/-- `LD I, addr` (R170). -/
def execLdIAddr (nnn : Addr12) (s : State) : Out := .next (s.setI (zextAddr nnn))

/-- `ADD I, Vx` (R171): `I` keeps 16 bits, VF is written last. -/
def execAddIVx (x : Reg) (s : State) : Out :=
  .next ((s.setI (BitVec.ofNat 16 (s.i.toNat + (s.reg x).toNat))).setFlag (indexFlag s.i (s.reg x)))

/-- `LD F, Vx` (R172). -/
def execLdFVx (x : Reg) (s : State) : Out := .next (s.setI (glyphAddr (lowNibble (s.reg x))))

/-- `LD B, Vx` (R173). -/
def execLdBVx (x : Reg) (s : State) : Out :=
  s.withRange 3 (.next (s.setMem (Memory.writeBytes s.mem s.i.toNat (bcdDigits (s.reg x)))))

/-- `LD [I], Vx` (R174). -/
def execLdMemVx (x : Reg) (s : State) : Out :=
  s.withRange (x.val + 1)
    (.next ((s.setMem (Memory.writeBytes s.mem s.i.toNat (s.regsUpTo x))).setI (s.indexAfter x)))

/-- `LD Vx, [I]` (R175). -/
def execLdVxMem (x : Reg) (s : State) : Out :=
  s.withRange (x.val + 1)
    (.next ((s.setVs (loadRegs s.mem s.i.toNat (x.val + 1) s.v)).setI (s.indexAfter x)))

end Sys2Proof.Machine
end

