-- ==== Sys2Proof/Machine/KeyTimer.lean ====
section
/-! DEFINITION. The keypad and timer instructions (44_keypad_timers.md). -/

namespace Sys2Proof.Machine

/-- `SKP Vx` (R210). -/
def execSkpVx (x : Reg) (s : State) : Out := .next (s.skipIf (s.keyDown (lowNibble (s.reg x))))

/-- `SKNP Vx` (R211). -/
def execSknpVx (x : Reg) (s : State) : Out := .next (s.skipIf (!s.keyDown (lowNibble (s.reg x))))

/-- `LD Vx, K` (R212): with no key down `PC` goes back to `pc0` and nothing else changes. -/
def execLdVxK (x : Reg) (s : State) : Out :=
  match s.firstKey with
  | some k => .next (s.setV x (BitVec.ofNat 8 k.val))
  | none => .next (s.setPc s.pc0)

/-- `LD Vx, DT` (R213). -/
def execLdVxDt (x : Reg) (s : State) : Out := .next (s.setV x s.dt)

/-- `LD DT, Vx` (R214). -/
def execLdDtVx (x : Reg) (s : State) : Out := .next (s.setDt (s.reg x))

/-- `LD ST, Vx` (R215). -/
def execLdStVx (x : Reg) (s : State) : Out := .next (s.setSt (s.reg x))

end Sys2Proof.Machine
end

