-- ==== Sys2Proof/Machine/Step.lean ====
section
/-! DEFINITION. The step: one fetch, decode and execute cycle (46_host_operations.md R232). -/

namespace Sys2Proof.Machine

/-- `step` of 46_host_operations.md R232. A latched error is answered as the terminal fault and nothing changes
(60_exceptions.md R268); a raised error is a next state with `ERR` latched (R262; DESIGN CHOICE,
log entry 2). -/
def step (s : State) : Host.Outcome State Fault Refusal :=
  match s.err with
  | some e => .fault e
  | none =>
    match s.fetch with
    | none => .next (s.raise (.fetchOutOfBounds s.pc))
    | some w =>
      match decodeWord w with
      | .error _ => .next (s.advance.raise (.illegalOpcode s.pc w))
      | .ok i => exec i s.advance

/-- Where `withFetchWord` places an instruction: at `PC`, or at 0x200 when nothing can be fetched at `PC`. -/
def State.fetchPlace (s : State) : Nat := if s.pc.toNat + 1 ≤ Config.lastAddr then s.pc.toNat else Config.progBase

/-- `s` with the instruction word stored where the next step fetches it. The fetch also needs an error latch that is
clear and a `PC` that lies in memory (log entry 7). -/
def State.withFetchWord (s : State) (nbits w : Nat) : State :=
  { s with
    err := none
    pc := BitVec.ofNat 16 s.fetchPlace
    mem := Memory.writeBytes s.mem s.fetchPlace (bytesOfWord (tableWord nbits w)) }

end Sys2Proof.Machine
end

