-- ==== Sys2Proof/Machine/HostOps.lean ====
section
/-! DEFINITION. The block's external interface: the eight host operations, each one atomic transition
(46_host_operations.md R230). -/

namespace Sys2Proof.Machine

/-- The host operations with their inputs (46_host_operations.md R230). -/
inductive HostOp where
  | reset
  | loadProgram (bytes : List Byte)
  | step
  | tickTimers
  | setKey (index : Reg) (pressed : Bool)
  | framebuffer
  | soundTimerActive
  | configureQuirks (shift loadstore jump : Bool)
  deriving DecidableEq, Repr

/-- The results of `step` (46_host_operations.md R233). -/
inductive StepStatus where
  /-- `Continue`: one instruction was executed. -/
  | continued
  /-- `WaitingForKey`: the instruction at `PC` is `LD Vx, K` and no key is down. -/
  | waitingForKey
  /-- One of the five fatal errors; `ERR` holds it. -/
  | error (e : Fault)
  /-- The model's own: the step was refused (log entry 3). It never happens in a state that meets the invariant. -/
  | refusedByModel (r : Refusal)
  deriving DecidableEq, Repr

/-- The results of the host operations (46_host_operations.md R230). -/
inductive HostResult where
  /-- No result. -/
  | none
  /-- `load_program` succeeded. -/
  | ok
  /-- `load_program` was refused (60_exceptions.md R274). -/
  | programTooLarge
  | status (r : StepStatus)
  /-- The framebuffer view, row-major. -/
  | pixels (ps : List Bool)
  | bit (b : Bool)
  deriving DecidableEq, Repr

/-- The code of an error on a status output, 0 for none (60_exceptions.md R261). -/
def errorCode : Option Fault → Nat
  | .none => 0
  | some (.fetchOutOfBounds _) => 1
  | some (.illegalOpcode _ _) => 2
  | some (.stackOverflow _) => 3
  | some (.stackUnderflow _) => 4
  | some (.memoryOutOfBounds _ _) => 5

/-- The program image is too large: `0x200 + len - 1 > 0xFFF` (46_host_operations.md R231). -/
def tooLarge (bytes : List Byte) : Bool := decide (Config.progMax < bytes.length)

/-- `load_program` (46_host_operations.md R231). -/
def State.loadProgram (s : State) (bytes : List Byte) : State :=
  if tooLarge bytes then s else s.setMem (Memory.writeBytes s.mem Config.progBase bytes)

/-- A timer after one tick (46_host_operations.md R234). -/
def tickByte (b : Byte) : Byte := if b = 0 then b else b - 1

/-- `tick_timers` (46_host_operations.md R234). -/
def State.tickTimers (s : State) : State := (s.setDt (tickByte s.dt)).setSt (tickByte s.st)

/-- `framebuffer` (46_host_operations.md R237): element `y * 64 + x` is `FB[y][x]`. -/
def State.framebuffer (s : State) : List Bool :=
  (List.range 2048).map fun k => Frame.pixel s.fb (k % 64) (k / 64)

/-- `sound_timer_active` (46_host_operations.md R238). -/
def State.soundTimerActive (s : State) : Bool := s.st != 0

/-- The step will find `LD Vx, K` at `PC` and no key down (44_keypad_timers.md R212); recomputed, never stored
(10_state.md R40). -/
def State.blocked (s : State) : Bool :=
  match s.err, s.fetch with
  | .none, some w =>
    match decodeWord w with
    | .ok (.ldVxK _) => s.firstKey.isNone
    | _ => false
  | _, _ => false

/-- The result of a step that went from `s` to `t` (46_host_operations.md R233). -/
def stepStatus (s t : State) : StepStatus :=
  match t.err with
  | some e => .error e
  | .none => if s.blocked then .waitingForKey else .continued

/-- `step` as the host sees it: the state it leaves and its result (46_host_operations.md R232, R233). -/
def State.hostStep (s : State) : State × StepStatus :=
  match Machine.step s with
  | .next t => (t, stepStatus s t)
  | .fault e => (s, .error e)
  | .refused r => (s, .refusedByModel r)

/-- One host operation: the state it leaves and its result (46_host_operations.md R230). -/
def hostOp (op : HostOp) (s : State) : State × HostResult :=
  match op with
  | .reset => (s.restart, .none)
  | .loadProgram bytes => (s.loadProgram bytes, if tooLarge bytes then .programTooLarge else .ok)
  | .step => (s.hostStep.1, .status s.hostStep.2)
  | .tickTimers => (s.tickTimers, .none)
  | .setKey k b => (s.setKeyBit k b, .none)
  | .framebuffer => (s, .pixels s.framebuffer)
  | .soundTimerActive => (s, .bit s.soundTimerActive)
  | .configureQuirks a b c => (s.setQ ⟨a, b, c⟩, .none)

/-- A sequence of host operations, in the host's order (20_memory.md R70, R71). -/
def hostRun : List HostOp → State → State
  | [], s => s
  | op :: ops, s => hostRun ops (hostOp op s).1

end Sys2Proof.Machine
end

