-- ==== Sys2Proof/Safety.lean ====
section
/-! DEFINITION. The terms claims are stated in: the invariant of a safe run, the parts of the state, what an instruction
may write, what a sprite covers. -/

namespace Sys2Proof.Machine

/-- The invariant: memory keeps its canonical form inside 0x000..0xFFF, `SP` is in 0..16 (10_state.md R29), `PC` is at
most 0x10FE (R26) and every stack cell holds a return address at most 0x1000 (40_control_flow.md R122). -/
abbrev State.Inv (s : State) : Prop :=
  Memory.wf s.mem ∧ s.sp.toNat ≤ 16 ∧ s.pc.toNat ≤ 0x10FE ∧ ∀ k : Reg, (s.stackAt k).toNat ≤ 0x1000

/-- The parts of the state, the columns of 10_state.md R44 and those it leaves out. -/
inductive Part where
  | regs | index | pc | sp | stack | dt | st | mem | fb | key | quirks | err | draws
  deriving DecidableEq, Repr

/-- A part holds in `t` what it holds in `s`: memory byte by byte, the display pixel by pixel. -/
def Part.same (p : Part) (s t : State) : Prop :=
  match p with
  | .regs => ∀ r : Reg, t.reg r = s.reg r
  | .index => t.i = s.i
  | .pc => t.pc = s.pc
  | .sp => t.sp = s.sp
  | .stack => ∀ k : Reg, t.stackAt k = s.stackAt k
  | .dt => t.dt = s.dt
  | .st => t.st = s.st
  | .mem => ∀ a : Nat, t.byteAt a = s.byteAt a
  | .fb => ∀ x y : Nat, Frame.pixel t.fb x y = Frame.pixel s.fb x y
  | .key => ∀ k : Reg, t.keyDown k = s.keyDown k
  | .quirks => t.q = s.q
  | .err => t.err = s.err
  | .draws => t.draws = s.draws

/-- Every part not listed in `ps` is unchanged. -/
def unchangedExcept (ps : List Part) (s t : State) : Prop := ∀ p : Part, p ∉ ps → Part.same p s t

/-- `exec i s` answers a next state, and `P` holds of it. -/
def completes (i : Instr) (s : State) (P : State → Prop) : Prop := ∃ t : State, exec i s = .next t ∧ P t

/-- Register `x` receives `b`; nothing else changes. -/
def writesOnlyReg (x : Reg) (b : Byte) (s t : State) : Prop :=
  (∀ r : Reg, t.reg r = if r = x then b else s.reg r) ∧ unchangedExcept [.regs] s t

/-- Register `x` receives `b`, then VF the flag `f` as 0 or 1; nothing else changes (10_state.md R23). -/
def writesRegAndFlag (x : Reg) (b : Byte) (f : Prop) [Decidable f] (s t : State) : Prop :=
  (∀ r : Reg, t.reg r = if r = vf then (if f then 1 else 0) else if r = x then b else s.reg r) ∧
    unchangedExcept [.regs] s t

/-- `ERR` latches `e`; nothing else changes (60_exceptions.md R262, R263). -/
def latchesOnly (e : Fault) (s t : State) : Prop := t.err = some e ∧ unchangedExcept [.err] s t

/-- The parts an instruction's body may write: the columns marked w of 10_state.md R44, `PC` where R25 lists it, `ERR`
where 60_exceptions.md R261 lists it, and the draw counter of the model for `RND`. -/
def writeSet : Instr → List Part
  | .cls => [.fb]
  | .ret => [.sp, .pc, .err]
  | .jpAddr _ | .jpV0Addr _ => [.pc]
  | .callAddr _ => [.sp, .stack, .pc, .err]
  | .seVxByte _ _ | .sneVxByte _ _ | .seVxVy _ _ | .sneVxVy _ _ | .skpVx _ | .sknpVx _ => [.pc]
  | .ldVxByte _ _ | .addVxByte _ _ | .ldVxVy _ _ | .orVxVy _ _ | .andVxVy _ _ | .xorVxVy _ _ => [.regs]
  | .addVxVy _ _ | .subVxVy _ _ | .shrVxVy _ _ | .subnVxVy _ _ | .shlVxVy _ _ => [.regs]
  | .rndVxByte _ _ => [.regs, .draws]
  | .drwVxVyNibble _ _ _ => [.regs, .fb, .err]
  | .ldVxDt _ => [.regs]
  | .ldVxK _ => [.regs, .pc]
  | .ldDtVx _ => [.dt]
  | .ldStVx _ => [.st]
  | .ldIAddr _ | .ldFVx _ => [.index]
  | .addIVx _ => [.regs, .index]
  | .ldBVx _ => [.mem, .err]
  | .ldMemVx _ => [.mem, .index, .err]
  | .ldVxMem _ => [.regs, .index, .err]

/-- The registers an instruction may write: its destination, and VF for the seven of 10_state.md R22. -/
def mayWriteReg (i : Instr) (r : Reg) : Bool :=
  match i with
  | .cls | .ret | .jpAddr _ | .callAddr _ | .ldIAddr _ | .jpV0Addr _ => false
  | .seVxByte _ _ | .sneVxByte _ _ | .seVxVy _ _ | .sneVxVy _ _ | .skpVx _ | .sknpVx _ => false
  | .ldVxByte x _ | .addVxByte x _ | .rndVxByte x _ => r == x
  | .ldVxVy x _ | .orVxVy x _ | .andVxVy x _ | .xorVxVy x _ => r == x
  | .addVxVy x _ | .subVxVy x _ | .shrVxVy x _ | .subnVxVy x _ | .shlVxVy x _ => r == x || r == vf
  | .drwVxVyNibble _ _ _ | .addIVx _ => r == vf
  | .ldVxDt x | .ldVxK x => r == x
  | .ldDtVx _ | .ldStVx _ | .ldFVx _ | .ldBVx _ | .ldMemVx _ => false
  | .ldVxMem x => decide (r ≤ x)

/-- How many bytes from `MEM[I]` up an instruction stores (20_memory.md R68). -/
def storedBytes : Instr → Nat
  | .ldBVx _ => 3
  | .ldMemVx x => x.val + 1
  | .cls | .ret | .jpAddr _ | .callAddr _ | .ldIAddr _ | .jpV0Addr _ => 0
  | .seVxByte _ _ | .sneVxByte _ _ | .seVxVy _ _ | .sneVxVy _ _ | .skpVx _ | .sknpVx _ => 0
  | .ldVxByte _ _ | .addVxByte _ _ | .rndVxByte _ _ => 0
  | .ldVxVy _ _ | .orVxVy _ _ | .andVxVy _ _ | .xorVxVy _ _ => 0
  | .addVxVy _ _ | .subVxVy _ _ | .shrVxVy _ _ | .subnVxVy _ _ | .shlVxVy _ _ => 0
  | .drwVxVyNibble _ _ _ | .addIVx _ | .ldVxDt _ | .ldVxK _ | .ldDtVx _ | .ldStVx _ | .ldFVx _ | .ldVxMem _ => 0

/-- The seven instructions that write VF as a flag (10_state.md R22). -/
def writesFlag : Instr → Bool
  | .addVxVy _ _ | .subVxVy _ _ | .subnVxVy _ _ | .shrVxVy _ _ | .shlVxVy _ _ => true
  | .addIVx _ | .drwVxVyNibble _ _ _ => true
  | .cls | .ret | .jpAddr _ | .callAddr _ | .ldIAddr _ | .jpV0Addr _ => false
  | .seVxByte _ _ | .sneVxByte _ _ | .seVxVy _ _ | .sneVxVy _ _ | .skpVx _ | .sknpVx _ => false
  | .ldVxByte _ _ | .addVxByte _ _ | .rndVxByte _ _ => false
  | .ldVxVy _ _ | .orVxVy _ _ | .andVxVy _ _ | .xorVxVy _ _ => false
  | .ldVxDt _ | .ldVxK _ | .ldDtVx _ | .ldStVx _ | .ldFVx _ | .ldBVx _ | .ldMemVx _ | .ldVxMem _ => false

/-- The sprite of `n` rows at `I`, drawn at the coordinates `vx`, `vy`, has a 1 bit over pixel `(px, py)`: some row `r`
lands on display row `py` without wrapping and some bit `c` of it on column `px` with wrapping (43_display.md R191). -/
def spriteCovers (s : State) (vx vy : Byte) (n px py : Nat) : Prop :=
  ∃ r c : Nat, r < n ∧ c < 8 ∧ py = vy.toNat % 32 + r ∧ px = (vx.toNat % 64 + c) % 64 ∧
    (s.byteAt (s.i.toNat + r)).getLsbD (7 - c) = true

end Sys2Proof.Machine
end

