-- ==== Sys2Proof/Certificates/Slice0/Obligations.lean ====
section
/-! DEFINITION. The statements for the provers, by the files of spec/. An instruction's body runs with `PC` already at
`pc0 + 2` (46_host_operations.md R232), so "`PC` unchanged" below means `pc0 + 2`. -/

open Sys2Proof Sys2Proof.Machine

/-! Encoding (30_encoding.md). -/

/-- Words written out from 30_encoding.md R93, one of each family and one illegal word of each group, decode as it says. -/
def Obligations.SampleWordsDecode : Prop :=
  decodeWord 0x00E0 = .ok .cls ∧ decodeWord 0x2300 = .ok (.callAddr 0x300) ∧
    decodeWord 0x812E = .ok (.shlVxVy 1 2) ∧ decodeWord 0xCA5F = .ok (.rndVxByte 10 0x5F) ∧
    decodeWord 0xB234 = .ok (.jpV0Addr 0x234) ∧ decodeWord 0xD01F = .ok (.drwVxVyNibble 0 1 15) ∧
    decodeWord 0xE1A1 = .ok (.sknpVx 1) ∧ decodeWord 0xF30A = .ok (.ldVxK 3) ∧
    decodeWord 0xFF55 = .ok (.ldMemVx 15) ∧ decodeWord 0x0123 = .error .op0 ∧ decodeWord 0x512F = .error .op5 ∧
    decodeWord 0x812D = .error .op8 ∧ decodeWord 0x9121 = .error .op9 ∧ decodeWord 0xE1A0 = .error .opE ∧
    decodeWord 0xF185 = .error .opF

/-- Every well-formed instruction, with every operand at every value its field admits, decodes from its encoding
(30_encoding.md R91, R92, R93). -/
def Obligations.EncodedInstructionDecodesToItself : Prop :=
  ∀ i : Instr, i.wellFormed = true →
    decodeWord (encode i) = .ok i ∧ ∀ rest : List Byte, decodeBytes (bytesOfWord (encode i) ++ rest) = .ok (i, rest)

/-- Every legal word is the encoding of the instruction it decodes to, which is well-formed (R93, R95). -/
def Obligations.DecodedWordEncodesToItself : Prop :=
  ∀ (w : Word) (i : Instr), decodeWord w = .ok i → encode i = w ∧ i.wellFormed = true

/-- The 34 rows of the opcode map are pairwise disjoint (R93). -/
def Obligations.AtMostOneRowMatches : Prop :=
  opcodeTable.length = 34 ∧
    ∀ (w : Word) (r1 r2 : OpcodeRow), r1 ∈ opcodeTable → r2 ∈ opcodeTable → rowMatches r1 w = true →
      rowMatches r2 w = true → r1 = r2

/-- The decoder accepts a word exactly when a row of the opcode map matches it, and answers an instruction of that row
with the word's fields (R93, R95). -/
def Obligations.DecoderFollowsTheOpcodeMap : Prop :=
  ∀ w : Word,
    (∀ i : Instr, decodeWord w = .ok i → opcodeRow i ∈ opcodeTable ∧ rowMatches (opcodeRow i) w = true) ∧
      ∀ r : OpcodeRow, r ∈ opcodeTable → rowMatches r w = true → ∃ i : Instr, decodeWord w = .ok i ∧ opcodeRow i = r

/-- The words the decoder rejects are those of R97's table, by arithmetic on the word. -/
def Obligations.IllegalWordsAreTheListedGroups : Prop :=
  ∀ w : Word,
    (∃ g : IllegalGroup, decodeWord w = .error g) ↔
      (w.toNat / 4096 = 0 ∧ w.toNat ≠ 0x00E0 ∧ w.toNat ≠ 0x00EE) ∨
        (w.toNat / 4096 = 5 ∧ w.toNat % 16 ≠ 0) ∨
        (w.toNat / 4096 = 8 ∧ 8 ≤ w.toNat % 16 ∧ w.toNat % 16 ≠ 14) ∨
        (w.toNat / 4096 = 9 ∧ w.toNat % 16 ≠ 0) ∨
        (w.toNat / 4096 = 14 ∧ w.toNat % 256 ≠ 0x9E ∧ w.toNat % 256 ≠ 0xA1) ∨
        (w.toNat / 4096 = 15 ∧ w.toNat % 256 ∉ [0x07, 0x0A, 0x15, 0x18, 0x1E, 0x29, 0x33, 0x55, 0x65])

/-! The step (46_host_operations.md R232) and the fatal errors (60_exceptions.md). -/

/-- When the two bytes at `PC` decode to an instruction and no error is latched, the step is that instruction's body
run with `PC` moved past the word and nothing else changed (R232). -/
def Obligations.StepRunsTheDecodedInstruction : Prop :=
  ∀ (s : State) (i : Instr) (rest : List Byte), s.err = none → s.pc.toNat ≤ 0xFFE →
    decodeBytes [s.byteAt s.pc.toNat, s.byteAt (s.pc.toNat + 1)] = .ok (i, rest) →
      step s = exec i s.advance ∧ s.advance.pc = s.pc + 2 ∧ unchangedExcept [.pc] s s.advance

/-- The fetch reads two bytes, the first as the high byte, and raises when either lies outside memory; nothing but
`ERR` changes then (20_memory.md R65).
That a raise is a next state with `ERR` latched, and a latched step the fault, is the model's choice: log entry 2. -/
def Obligations.FetchIsBoundedAndBigEndian : Prop :=
  ∀ s : State, s.err = none →
    (0xFFF ≤ s.pc.toNat → ∃ t : State, step s = .next t ∧ latchesOnly (.fetchOutOfBounds s.pc) s t) ∧
      (s.pc.toNat ≤ 0xFFE → ∃ w : Word, s.fetch = some w ∧
        w.toNat = (s.byteAt s.pc.toNat).toNat * 256 + (s.byteAt (s.pc.toNat + 1)).toNat)

/-- An illegal word raises IllegalOpcode after the fetch succeeded and `PC` was advanced; the zero word is illegal
(60_exceptions.md R265).
That a raise is a next state with `ERR` latched, and a latched step the fault, is the model's choice: log entry 2. -/
def Obligations.IllegalWordRaises : Prop :=
  decodeWord 0x0000 = .error .op0 ∧
    ∀ (s : State) (w : Word) (g : IllegalGroup), s.err = none → s.fetch = some w → decodeWord w = .error g →
      ∃ t : State, step s = .next t ∧ t.err = some (.illegalOpcode s.pc w) ∧ t.pc = s.pc + 2 ∧
        unchangedExcept [.pc, .err] s t

/-- The error latch is sticky: a latched step answers the error and changes nothing, every host operation but `reset`
keeps it, and `reset` clears it (60_exceptions.md R268).
That a raise is a next state with `ERR` latched, and a latched step the fault, is the model's choice: log entry 2. -/
def Obligations.ErrorLatchIsSticky : Prop :=
  ∀ (s : State) (e : Fault), s.err = some e →
    step s = .fault e ∧ hostOp .step s = (s, .status (.error e)) ∧
      (∀ op : HostOp, op ≠ .reset → (hostOp op s).1.err = some e) ∧ (hostOp .reset s).1.err = none

/-- An instruction that raises has written nothing but `ERR`: `PC` stays `pc0 + 2` (60_exceptions.md R263, decision
D17; the state after an error is the spec's own choice, log entry 2). -/
def Obligations.RaisedErrorsArePrecise : Prop :=
  ∀ (i : Instr) (s t : State), s.err = none → exec i s = .next t → t.err ≠ none → unchangedExcept [.err] s t

/-- Only the conditions of 60_exceptions.md R261 make an instruction raise, each its own error with its recorded
information.
That a raise is a next state with `ERR` latched, and a latched step the fault, is the model's choice: log entry 2. -/
def Obligations.OnlyTheListedConditionsRaise : Prop :=
  ∀ (i : Instr) (s t : State) (e : Fault), s.err = none → exec i s = .next t → t.err = some e →
    (∃ nnn : Addr12, i = .callAddr nnn ∧ s.sp = 16 ∧ e = .stackOverflow (s.pc - 2)) ∨
      (i = .ret ∧ s.sp = 0 ∧ e = .stackUnderflow (s.pc - 2)) ∨
      (∃ (x y : Reg) (n : Nat), i = .drwVxVyNibble x y n ∧ 0 < n ∧ 0xFFF < s.i.toNat + n - 1 ∧
        e = .memoryOutOfBounds (s.pc - 2) s.i) ∨
      (∃ x : Reg, i = .ldBVx x ∧ 0xFFF < s.i.toNat + 2 ∧ e = .memoryOutOfBounds (s.pc - 2) s.i) ∨
      (∃ x : Reg, (i = .ldMemVx x ∨ i = .ldVxMem x) ∧ 0xFFF < s.i.toNat + x.val ∧
        e = .memoryOutOfBounds (s.pc - 2) s.i)

/-- A step from a state that meets the invariant is never refused, and faults only when an error was latched before
(10_state.md R29, 60_exceptions.md R268).
That a raise is a next state with `ERR` latched, and a latched step the fault, is the model's choice: log entry 2. -/
def Obligations.SafeStepIsNeverRefused : Prop :=
  ∀ s : State, s.Inv → (∀ r : Refusal, step s ≠ .refused r) ∧ ∀ e : Fault, step s = .fault e → s.err = some e

/-! Control flow (40_control_flow.md). -/

/-- `RET` pops the return address, or raises StackUnderflow on an empty stack with nothing written (R120).
That a raise is a next state with `ERR` latched, and a latched step the fault, is the model's choice: log entry 2. -/
def Obligations.ReturnPopsTheStack : Prop :=
  decodeWord 0x00EE = .ok .ret ∧
    ∀ s : State,
      (s.sp = 0 → completes .ret s (latchesOnly (.stackUnderflow (s.pc - 2)) s)) ∧
        ∀ k : Reg, s.sp.toNat = k.val + 1 →
          completes .ret s fun t => t.sp.toNat = k.val ∧ t.pc = s.stackAt k ∧ unchangedExcept [.sp, .pc] s t

/-- `CALL` pushes the advanced `PC` and jumps, or raises StackOverflow when 16 addresses are held, with nothing written
(R122).
That a raise is a next state with `ERR` latched, and a latched step the fault, is the model's choice: log entry 2. -/
def Obligations.CallPushesTheReturnAddress : Prop :=
  ∀ (nnn : Addr12) (s : State),
    decodeWord (0x2#4 ++ nnn) = .ok (.callAddr nnn) ∧
      (s.sp = 16 → completes (.callAddr nnn) s (latchesOnly (.stackOverflow (s.pc - 2)) s)) ∧
      ∀ k : Reg, s.sp.toNat = k.val →
        completes (.callAddr nnn) s fun t =>
          (∀ c : Reg, t.stackAt c = if c = k then s.pc else s.stackAt c) ∧ t.sp.toNat = k.val + 1 ∧
            t.pc.toNat = nnn.toNat ∧ unchangedExcept [.stack, .sp, .pc] s t

/-- `JP addr` (R121). -/
def Obligations.JumpGoesToTheAddress : Prop :=
  ∀ (nnn : Addr12) (s : State),
    decodeWord (0x1#4 ++ nnn) = .ok (.jpAddr nnn) ∧
      completes (.jpAddr nnn) s fun t => t.pc.toNat = nnn.toNat ∧ unchangedExcept [.pc] s t

/-- `JP V0, addr` adds V0, or under `Q.jump` the register named by the top nibble of `NNN`; the sum is not masked to 12
bits (R128). -/
def Obligations.JumpWithOffsetAddsTheRegister : Prop :=
  ∀ (nnn : Addr12) (x : Reg) (s : State), x.val = nnn.toNat / 256 →
    decodeWord (0xB#4 ++ nnn) = .ok (.jpV0Addr nnn) ∧
      completes (.jpV0Addr nnn) s fun t =>
        t.pc.toNat = nnn.toNat + (if s.q.jump then s.reg x else s.reg 0).toNat ∧ unchangedExcept [.pc] s t

/-- The four register skips: 2 more is added to the advanced `PC` exactly when the condition holds (R123 to R126). -/
def Obligations.SkipsCompareRegisters : Prop :=
  ∀ (x y : Reg) (nn : Byte) (s : State),
    (decodeWord (0x3#4 ++ (BitVec.ofNat 4 x.val ++ nn : BitVec 12)) = .ok (.seVxByte x nn) ∧
      completes (.seVxByte x nn) s fun t =>
        t.pc = (if s.reg x = nn then s.pc + 2 else s.pc) ∧ unchangedExcept [.pc] s t) ∧
    (decodeWord (0x4#4 ++ (BitVec.ofNat 4 x.val ++ nn : BitVec 12)) = .ok (.sneVxByte x nn) ∧
      completes (.sneVxByte x nn) s fun t =>
        t.pc = (if s.reg x = nn then s.pc else s.pc + 2) ∧ unchangedExcept [.pc] s t) ∧
    (decodeWord (formatXYN 0x5 x y 0x0) = .ok (.seVxVy x y) ∧
      completes (.seVxVy x y) s fun t =>
        t.pc = (if s.reg x = s.reg y then s.pc + 2 else s.pc) ∧ unchangedExcept [.pc] s t) ∧
    (decodeWord (formatXYN 0x9 x y 0x0) = .ok (.sneVxVy x y) ∧
      completes (.sneVxVy x y) s fun t =>
        t.pc = (if s.reg x = s.reg y then s.pc else s.pc + 2) ∧ unchangedExcept [.pc] s t)

/-- After a `CALL`, a `RET` run on the stack it left resumes at the instruction after the `CALL` and restores `SP`
(R120, R122, 70_reset_and_hazards.md R312). -/
def Obligations.ReturnUndoesCall : Prop :=
  ∀ (nnn : Addr12) (s t u : State), s.sp.toNat < 16 → exec (.callAddr nnn) s = .next t → u.sp = t.sp →
    (∀ k : Reg, u.stackAt k = t.stackAt k) → completes .ret u fun w => w.pc = s.pc ∧ w.sp = s.sp

/-- A jump to its own address changes nothing, step after step (R121, 70_reset_and_hazards.md R316). -/
def Obligations.ParkedJumpChangesNothing : Prop :=
  ∀ (s : State) (nnn : Addr12), s.err = none → nnn.toNat = s.pc.toNat → s.fetch = some (0x1#4 ++ nnn) →
    step s = .next s

/-! Registers and ALU (41_alu.md). -/

/-- `LD Vx, byte` and `LD Vx, Vy` write their destination and nothing else (R140, R142). -/
def Obligations.LoadsWriteOneRegister : Prop :=
  ∀ (x y : Reg) (nn : Byte) (s : State),
    (decodeWord (formatXB 0x6 x nn) = .ok (.ldVxByte x nn) ∧
      completes (.ldVxByte x nn) s (writesOnlyReg x nn s)) ∧
    (decodeWord (formatXYN 0x8 x y 0x0) = .ok (.ldVxVy x y) ∧
      completes (.ldVxVy x y) s (writesOnlyReg x (s.reg y) s))

/-- `ADD Vx, byte` wraps modulo 256 and records no carry (R141). -/
def Obligations.AddImmediateWraps : Prop :=
  ∀ (x : Reg) (nn : Byte) (s : State),
    decodeWord (formatXB 0x7 x nn) = .ok (.addVxByte x nn) ∧
      completes (.addVxByte x nn) s (writesOnlyReg x (BitVec.ofNat 8 (((s.reg x).toNat + nn.toNat) % 256)) s)

/-- `OR`, `AND`, `XOR` write their destination and leave VF alone unless it is that destination (R143, R144, R145). -/
def Obligations.BitwiseOpsLeaveTheFlag : Prop :=
  ∀ (x y : Reg) (s : State),
    (decodeWord (formatXYN 0x8 x y 0x1) = .ok (.orVxVy x y) ∧
      completes (.orVxVy x y) s (writesOnlyReg x (s.reg x ||| s.reg y) s)) ∧
    (decodeWord (formatXYN 0x8 x y 0x2) = .ok (.andVxVy x y) ∧
      completes (.andVxVy x y) s (writesOnlyReg x (s.reg x &&& s.reg y) s)) ∧
    (decodeWord (formatXYN 0x8 x y 0x3) = .ok (.xorVxVy x y) ∧
      completes (.xorVxVy x y) s (writesOnlyReg x (s.reg x ^^^ s.reg y) s))

/-- `ADD Vx, Vy`: the sum modulo 256, then VF = carry, on the old operands (R146). -/
def Obligations.AddSetsCarry : Prop :=
  ∀ (x y : Reg) (s : State),
    decodeWord (formatXYN 0x8 x y 0x4) = .ok (.addVxVy x y) ∧
      completes (.addVxVy x y) s
        (writesRegAndFlag x (BitVec.ofNat 8 (((s.reg x).toNat + (s.reg y).toNat) % 256))
          (255 < (s.reg x).toNat + (s.reg y).toNat) s)

/-- `SUB` and `SUBN`: the difference modulo 256, then VF = 1 when no borrow occurred (R147, R149). -/
def Obligations.SubtractionsSetNotBorrow : Prop :=
  ∀ (x y : Reg) (s : State),
    (decodeWord (formatXYN 0x8 x y 0x5) = .ok (.subVxVy x y) ∧
      completes (.subVxVy x y) s
        (writesRegAndFlag x (BitVec.ofNat 8 ((256 + (s.reg x).toNat - (s.reg y).toNat) % 256))
          ((s.reg y).toNat ≤ (s.reg x).toNat) s)) ∧
    (decodeWord (formatXYN 0x8 x y 0x7) = .ok (.subnVxVy x y) ∧
      completes (.subnVxVy x y) s
        (writesRegAndFlag x (BitVec.ofNat 8 ((256 + (s.reg y).toNat - (s.reg x).toNat) % 256))
          ((s.reg x).toNat ≤ (s.reg y).toNat) s))

/-- `SHR`: half of `V[Y]`, or of `V[X]` under `Q.shift`, then VF = the bit shifted out (R148). -/
def Obligations.ShiftRightHalvesTheOperand : Prop :=
  ∀ (x y : Reg) (s : State) (op : Byte), op = (if s.q.shift then s.reg x else s.reg y) →
    decodeWord (formatXYN 0x8 x y 0x6) = .ok (.shrVxVy x y) ∧
      completes (.shrVxVy x y) s (writesRegAndFlag x (BitVec.ofNat 8 (op.toNat / 2)) (op.toNat % 2 = 1) s)

/-- `SHL`: twice `V[Y]`, or `V[X]` under `Q.shift`, modulo 256, then VF = the bit shifted out (R150). -/
def Obligations.ShiftLeftDoublesTheOperand : Prop :=
  ∀ (x y : Reg) (s : State) (op : Byte), op = (if s.q.shift then s.reg x else s.reg y) →
    decodeWord (formatXYN 0x8 x y 0xE) = .ok (.shlVxVy x y) ∧
      completes (.shlVxVy x y) s (writesRegAndFlag x (BitVec.ofNat 8 (op.toNat * 2 % 256)) (128 ≤ op.toNat) s)

/-- Under `Q.shift` the `Y` field of a shift has no effect at all (30_encoding.md R98). -/
def Obligations.ShiftInPlaceIgnoresY : Prop :=
  ∀ (x y z : Reg) (s : State), s.q.shift = true →
    exec (.shrVxVy x y) s = exec (.shrVxVy x z) s ∧ exec (.shlVxVy x y) s = exec (.shlVxVy x z) s

/-- `RND`: the drawn byte, whatever it is, under the mask; exactly one draw is taken (R152). The byte is a free value
(log entry 1). -/
def Obligations.RandomByteIsMasked : Prop :=
  ∀ (x : Reg) (nn : Byte) (s : State),
    decodeWord (formatXB 0xC x nn) = .ok (.rndVxByte x nn) ∧
      completes (.rndVxByte x nn) s fun t =>
        (∀ r : Reg, t.reg r = if r = x then Config.randomByte s.draws &&& nn else s.reg r) ∧
          t.reg x &&& ~~~nn = 0 ∧ t.draws = s.draws + 1 ∧ unchangedExcept [.regs, .draws] s t

/-- Any of the seven flag-writing instructions that completes leaves VF at 0 or 1, whatever register it names
(10_state.md R22, R23; 70_reset_and_hazards.md R311). -/
def Obligations.FlagWritersLeaveZeroOrOne : Prop :=
  ∀ (i : Instr) (s t : State), writesFlag i = true → s.err = none → exec i s = .next t → t.err = none →
    t.reg vf = 0 ∨ t.reg vf = 1

/-! Index register and memory (42_index_memory.md). -/

/-- `LD I, addr` (R170). -/
def Obligations.LoadIndexIsZeroExtended : Prop :=
  ∀ (nnn : Addr12) (s : State),
    decodeWord (0xA#4 ++ nnn) = .ok (.ldIAddr nnn) ∧
      completes (.ldIAddr nnn) s fun t => t.i.toNat = nnn.toNat ∧ unchangedExcept [.index] s t

/-- `ADD I, Vx`: the sum modulo 65536, then VF = 1 when the unbounded sum exceeds 0x0FFF, else 0 (R171). -/
def Obligations.AddToIndexSetsOverflow : Prop :=
  ∀ (x : Reg) (s : State),
    decodeWord (formatXB 0xF x 0x1E) = .ok (.addIVx x) ∧
      completes (.addIVx x) s fun t =>
        t.i.toNat = (s.i.toNat + (s.reg x).toNat) % 65536 ∧
          (∀ r : Reg, t.reg r = if r = vf then (if 0x0FFF < s.i.toNat + (s.reg x).toNat then 1 else 0) else s.reg r) ∧
          unchangedExcept [.regs, .index] s t

/-- `LD F, Vx`: the glyph of the low nibble, 5 bytes each from 0x050 (R172). -/
def Obligations.GlyphAddressOfLowNibble : Prop :=
  ∀ (x : Reg) (s : State),
    decodeWord (formatXB 0xF x 0x29) = .ok (.ldFVx x) ∧
      completes (.ldFVx x) s fun t => t.i.toNat = 0x050 + 5 * ((s.reg x).toNat % 16) ∧ unchangedExcept [.index] s t

/-- `LD B, Vx`: hundreds, tens and ones at `I`, `I + 1`, `I + 2`, every other byte kept; out of range, the error and
nothing else (R173). The memory is in canonical form.
That a raise is a next state with `ERR` latched, and a latched step the fault, is the model's choice: log entry 2. -/
def Obligations.BcdStoresThreeDigits : Prop :=
  ∀ (x : Reg) (s : State), Memory.wf s.mem →
    decodeWord (formatXB 0xF x 0x33) = .ok (.ldBVx x) ∧
      (0xFFF < s.i.toNat + 2 → completes (.ldBVx x) s (latchesOnly (.memoryOutOfBounds (s.pc - 2) s.i) s)) ∧
      (s.i.toNat + 2 ≤ 0xFFF →
        completes (.ldBVx x) s fun t =>
          (∀ a : Nat, t.byteAt a =
            if a = s.i.toNat then BitVec.ofNat 8 ((s.reg x).toNat / 100)
            else if a = s.i.toNat + 1 then BitVec.ofNat 8 ((s.reg x).toNat / 10 % 10)
            else if a = s.i.toNat + 2 then BitVec.ofNat 8 ((s.reg x).toNat % 10)
            else s.byteAt a) ∧
          unchangedExcept [.mem] s t)

/-- `LD [I], Vx`: V0 to VX at `I` to `I + X`, every other byte kept, `I` advanced by `X + 1` under `Q.loadstore`; out of
range, the error and nothing else (R174). The memory is in canonical form.
That a raise is a next state with `ERR` latched, and a latched step the fault, is the model's choice: log entry 2. -/
def Obligations.RegisterDumpStoresUpToVx : Prop :=
  ∀ (x : Reg) (s : State), Memory.wf s.mem →
    decodeWord (formatXB 0xF x 0x55) = .ok (.ldMemVx x) ∧
      (0xFFF < s.i.toNat + x.val →
        completes (.ldMemVx x) s (latchesOnly (.memoryOutOfBounds (s.pc - 2) s.i) s)) ∧
      (s.i.toNat + x.val ≤ 0xFFF →
        completes (.ldMemVx x) s fun t =>
          (∀ k : Reg, k ≤ x → t.byteAt (s.i.toNat + k.val) = s.reg k) ∧
          (∀ a : Nat, a < s.i.toNat ∨ s.i.toNat + x.val < a → t.byteAt a = s.byteAt a) ∧
          t.i.toNat = (if s.q.loadstore then s.i.toNat + x.val + 1 else s.i.toNat) ∧
          unchangedExcept [.mem, .index] s t)

/-- `LD Vx, [I]`: V0 to VX from `I` to `I + X`, higher registers kept, `I` advanced by `X + 1` under `Q.loadstore`; out
of range, the error and nothing else (R175).
That a raise is a next state with `ERR` latched, and a latched step the fault, is the model's choice: log entry 2. -/
def Obligations.RegisterLoadReadsUpToVx : Prop :=
  ∀ (x : Reg) (s : State),
    decodeWord (formatXB 0xF x 0x65) = .ok (.ldVxMem x) ∧
      (0xFFF < s.i.toNat + x.val →
        completes (.ldVxMem x) s (latchesOnly (.memoryOutOfBounds (s.pc - 2) s.i) s)) ∧
      (s.i.toNat + x.val ≤ 0xFFF →
        completes (.ldVxMem x) s fun t =>
          (∀ r : Reg, t.reg r = if r ≤ x then s.byteAt (s.i.toNat + r.val) else s.reg r) ∧
          t.i.toNat = (if s.q.loadstore then s.i.toNat + x.val + 1 else s.i.toNat) ∧
          unchangedExcept [.regs, .index] s t)

/-- A register load from where a dump stored gives the dumped registers back, whatever else changed in between
(R174, R175). -/
def Obligations.RegisterLoadUndoesDump : Prop :=
  ∀ (x : Reg) (s t u : State), Memory.wf s.mem → s.i.toNat + x.val ≤ 0xFFF → exec (.ldMemVx x) s = .next t →
    u.i = s.i → (∀ a : Nat, u.byteAt a = t.byteAt a) →
      completes (.ldVxMem x) u fun w => ∀ r : Reg, r ≤ x → w.reg r = s.reg r

/-- A store over the next instruction is what the next fetch sees, with no barrier (20_memory.md R73). -/
def Obligations.StoreIsSeenByTheNextFetch : Prop :=
  ∀ (x : Reg) (s t : State), Memory.wf s.mem → 1 ≤ x.val → s.i = s.pc → s.i.toNat + x.val ≤ 0xFFF →
    exec (.ldMemVx x) s = .next t →
      ∃ w : Word, t.fetch = some w ∧ w.toNat = (s.reg 0).toNat * 256 + (s.reg 1).toNat

/-! Display (43_display.md). -/

/-- `CLS` turns every pixel off and writes nothing else (R190). -/
def Obligations.ClearTurnsEveryPixelOff : Prop :=
  decodeWord 0x00E0 = .ok .cls ∧
    ∀ s : State, completes .cls s fun t => (∀ x y : Nat, Frame.pixel t.fb x y = false) ∧ unchangedExcept [.fb] s t

/-- `DRW` flips exactly the pixels under the sprite's 1 bits, columns wrapped and rows past the bottom dropped, and VF
ends as the collision; out of range, the error and nothing else; no row, no address (R191).
That a raise is a next state with `ERR` latched, and a latched step the fault, is the model's choice: log entry 2. -/
def Obligations.DrawFlipsThePixelsUnderTheSprite : Prop :=
  ∀ (x y : Reg) (n : Nat) (s : State), n ≤ 15 →
    decodeWord (formatXYN 0xD x y (BitVec.ofNat 4 n)) = .ok (.drwVxVyNibble x y n) ∧
      (0 < n ∧ 0xFFF < s.i.toNat + n - 1 →
        completes (.drwVxVyNibble x y n) s (latchesOnly (.memoryOutOfBounds (s.pc - 2) s.i) s)) ∧
      (n = 0 ∨ s.i.toNat + n - 1 ≤ 0xFFF →
        completes (.drwVxVyNibble x y n) s fun t =>
          (∀ px py : Nat, px < 64 → py < 32 →
            (spriteCovers s (s.reg x) (s.reg y) n px py → Frame.pixel t.fb px py = !Frame.pixel s.fb px py) ∧
              (¬ spriteCovers s (s.reg x) (s.reg y) n px py → Frame.pixel t.fb px py = Frame.pixel s.fb px py)) ∧
          (∀ r : Reg, r ≠ vf → t.reg r = s.reg r) ∧
          (t.reg vf = 0 ∨ t.reg vf = 1) ∧
          (t.reg vf = 1 ↔ ∃ px py : Nat, px < 64 ∧ py < 32 ∧ spriteCovers s (s.reg x) (s.reg y) n px py ∧
            Frame.pixel s.fb px py = true) ∧
          unchangedExcept [.regs, .fb] s t)

/-- Drawing the same sprite at the same coordinate values twice restores every pixel, and the second collision says
whether the first draw turned a pixel on (R192). The second draw may name other registers. -/
def Obligations.DrawingTwiceRestoresTheDisplay : Prop :=
  ∀ (x y x2 y2 : Reg) (n : Nat) (s t u : State), n = 0 ∨ s.i.toNat + n - 1 ≤ 0xFFF →
    exec (.drwVxVyNibble x y n) s = .next t → u.fb = t.fb → u.i = s.i → (∀ a : Nat, u.byteAt a = s.byteAt a) →
    u.reg x2 = s.reg x → u.reg y2 = s.reg y →
      completes (.drwVxVyNibble x2 y2 n) u fun w =>
        (∀ px py : Nat, Frame.pixel w.fb px py = Frame.pixel s.fb px py) ∧
          (w.reg vf = 1 ↔ ∃ px py : Nat, px < 64 ∧ py < 32 ∧ spriteCovers s (s.reg x) (s.reg y) n px py ∧
            Frame.pixel s.fb px py = false)

/-! Keypad and timers (44_keypad_timers.md). -/

/-- `SKP` and `SKNP` test the key named by the low nibble of `V[X]` (R210, R211). -/
def Obligations.KeySkipsTestTheLowNibble : Prop :=
  ∀ (x k : Reg) (s : State), k.val = (s.reg x).toNat % 16 →
    (decodeWord (formatXB 0xE x 0x9E) = .ok (.skpVx x) ∧
      completes (.skpVx x) s fun t =>
        t.pc = (if s.keyDown k = true then s.pc + 2 else s.pc) ∧ unchangedExcept [.pc] s t) ∧
    (decodeWord (formatXB 0xE x 0xA1) = .ok (.sknpVx x) ∧
      completes (.sknpVx x) s fun t =>
        t.pc = (if s.keyDown k = true then s.pc else s.pc + 2) ∧ unchangedExcept [.pc] s t)

/-- `LD Vx, K`: with no key down `PC` goes back to the instruction and nothing else changes; otherwise the smallest
pressed key is stored and `PC` stays (R212). -/
def Obligations.KeyWaitTakesTheSmallestKey : Prop :=
  ∀ (x : Reg) (s : State),
    decodeWord (formatXB 0xF x 0x0A) = .ok (.ldVxK x) ∧
      ((∀ k : Reg, s.keyDown k = false) →
        completes (.ldVxK x) s fun t => t.pc = s.pc - 2 ∧ unchangedExcept [.pc] s t) ∧
      ∀ k : Reg, s.keyDown k = true → (∀ j : Reg, j < k → s.keyDown j = false) →
        completes (.ldVxK x) s (writesOnlyReg x (BitVec.ofNat 8 k.val) s)

/-- `WaitingForKey` is the result of a step exactly when no error is latched, the word at `PC` is `LD Vx, K` and no key
is down; that step changes nothing at all (R212, 46_host_operations.md R233). -/
def Obligations.WaitingStepChangesNothing : Prop :=
  ∀ s : State,
    (s.hostStep.2 = .waitingForKey ↔
      s.err = none ∧ (∃ x : Reg, s.fetch = some (formatXB 0xF x 0x0A)) ∧ ∀ k : Reg, s.keyDown k = false) ∧
      (s.hostStep.2 = .waitingForKey → step s = .next s ∧ s.hostStep.1 = s)

/-- `LD Vx, DT` reads the delay timer; `LD DT, Vx` and `LD ST, Vx` load the timers (R213, R214, R215). -/
def Obligations.TimerInstructionsMoveOneByte : Prop :=
  ∀ (x : Reg) (s : State),
    (decodeWord (formatXB 0xF x 0x07) = .ok (.ldVxDt x) ∧ completes (.ldVxDt x) s (writesOnlyReg x s.dt s)) ∧
    (decodeWord (formatXB 0xF x 0x15) = .ok (.ldDtVx x) ∧
      completes (.ldDtVx x) s fun t => t.dt = s.reg x ∧ unchangedExcept [.dt] s t) ∧
    (decodeWord (formatXB 0xF x 0x18) = .ok (.ldStVx x) ∧
      completes (.ldStVx x) s fun t => t.st = s.reg x ∧ unchangedExcept [.st] s t)

/-! Frames and rules about the whole machine. -/

/-- Every instruction writes only its columns of 10_state.md R44, `PC` only where R25 lists it. -/
def Obligations.InstructionsWriteOnlyTheirSet : Prop :=
  ∀ (i : Instr) (s t : State), exec i s = .next t → unchangedExcept (writeSet i) s t

/-- Every register but the destination, and VF for the seven flag writers, is unchanged (10_state.md R22, R44). -/
def Obligations.OtherRegistersAreUnchanged : Prop :=
  ∀ (i : Instr) (s t : State) (r : Reg), exec i s = .next t → mayWriteReg i r = false → t.reg r = s.reg r

/-- Every byte outside the bytes an instruction stores from `MEM[I]` up is unchanged; an instruction that stores nothing
changes no byte (20_memory.md R64, R68). -/
def Obligations.OtherBytesAreUnchanged : Prop :=
  ∀ (i : Instr) (s t : State) (a : Nat), exec i s = .next t →
    a < s.i.toNat ∨ s.i.toNat + storedBytes i ≤ a → t.byteAt a = s.byteAt a

/-- Only `RND` looks at the random source: any other instruction does the same whatever the source has supplied
(10_state.md R38, R44). -/
def Obligations.OnlyRandomReadsTheSource : Prop :=
  ∀ (i : Instr) (s t : State) (n : Nat), (∀ (x : Reg) (nn : Byte), i ≠ .rndVxByte x nn) → exec i s = .next t →
    exec i { s with draws := n } = .next { t with draws := n }

/-- Every step keeps the invariant: canonical memory, `SP` at most 16, `PC` at most 0x10FE, return addresses at most
0x1000 (10_state.md R26, R29; 20_memory.md R64). -/
def Obligations.StepKeepsTheInvariant : Prop := ∀ s t : State, s.Inv → step s = .next t → t.Inv

/-- The invariant holds at power-on (10_state.md R41). -/
def Obligations.PowerOnMeetsTheInvariant : Prop := State.reset.Inv

/-- Every host operation keeps the invariant, so it holds after any sequence of them, steps included, in any order the
host issues them (20_memory.md R70, R71; 46_host_operations.md R230). -/
def Obligations.EveryHostRunKeepsTheInvariant : Prop :=
  (∀ (op : HostOp) (s : State), s.Inv → (hostOp op s).1.Inv) ∧ ∀ ops : List HostOp, (hostRun ops State.reset).Inv

/-! Reset and the host operations (70_reset_and_hazards.md, 46_host_operations.md). -/

/-- The power-on state of 10_state.md R41, the font of R43 included. -/
def Obligations.PowerOnStateAsSpecified : Prop :=
  (∀ r : Reg, State.reset.reg r = 0) ∧ State.reset.i = 0 ∧ State.reset.pc = 0x200 ∧ State.reset.sp = 0 ∧
    (∀ k : Reg, State.reset.stackAt k = 0) ∧ State.reset.dt = 0 ∧ State.reset.st = 0 ∧
    (∀ x y : Nat, Frame.pixel State.reset.fb x y = false) ∧ (∀ k : Reg, State.reset.keyDown k = false) ∧
    State.reset.q = ⟨false, false, false⟩ ∧ State.reset.err = none ∧
    (∀ a : Nat, a < 0x050 ∨ 0x0A0 ≤ a → State.reset.byteAt a = 0) ∧
    Memory.readBytes State.reset.mem 0x050 80 =
      [0xF0, 0x90, 0x90, 0x90, 0xF0, 0x20, 0x60, 0x20, 0x20, 0x70, 0xF0, 0x10, 0xF0, 0x80, 0xF0, 0xF0, 0x10, 0xF0, 0x10,
       0xF0, 0x90, 0x90, 0xF0, 0x10, 0x10, 0xF0, 0x80, 0xF0, 0x10, 0xF0, 0xF0, 0x80, 0xF0, 0x90, 0xF0, 0xF0, 0x10, 0x20,
       0x40, 0x40] ++
      [0xF0, 0x90, 0xF0, 0x90, 0xF0, 0xF0, 0x90, 0xF0, 0x10, 0xF0, 0xF0, 0x90, 0xF0, 0x90, 0x90, 0xE0, 0x90, 0xE0, 0x90,
       0xE0, 0xF0, 0x80, 0x80, 0x80, 0xF0, 0xE0, 0x90, 0x90, 0x90, 0xE0, 0xF0, 0x80, 0xF0, 0x80, 0xF0, 0xF0, 0x80, 0xF0,
       0x80, 0x80]

/-- `reset` puts every piece of state at its power-on value, the loaded program erased, and leaves `Q` (R300). -/
def Obligations.ResetKeepsOnlyTheQuirks : Prop :=
  ∀ s t : State, t = (hostOp .reset s).1 →
    (∀ r : Reg, t.reg r = 0) ∧ t.i = 0 ∧ t.pc = 0x200 ∧ t.sp = 0 ∧ (∀ k : Reg, t.stackAt k = 0) ∧ t.dt = 0 ∧ t.st = 0 ∧
      (∀ x y : Nat, Frame.pixel t.fb x y = false) ∧ (∀ k : Reg, t.keyDown k = false) ∧ t.err = none ∧
      (∀ a : Nat, t.byteAt a = if 0x050 ≤ a ∧ a < 0x0A0 then font.getD (a - 0x050) 0 else 0) ∧ t.q = s.q

/-- `load_program` copies the image to 0x200 and writes nothing else, or refuses an image of more than 3584 bytes and
writes nothing at all (R231). The memory is in canonical form. -/
def Obligations.LoadProgramCopiesTheImage : Prop :=
  ∀ (bytes : List Byte) (s t : State) (r : HostResult), Memory.wf s.mem → hostOp (.loadProgram bytes) s = (t, r) →
    (3584 < bytes.length → t = s ∧ r = .programTooLarge) ∧
      (bytes.length ≤ 3584 → r = .ok ∧ unchangedExcept [.mem] s t ∧
        (∀ k : Nat, k < bytes.length → bytes[k]? = some (t.byteAt (0x200 + k))) ∧
        ∀ a : Nat, a < 0x200 ∨ 0x200 + bytes.length ≤ a → t.byteAt a = s.byteAt a)

/-- `tick_timers` decrements both timers by 1 while nonzero and writes nothing else (R234). R234 leaves a tick after a
fatal error unspecified: that it acts there as always is 60_exceptions.md R263 as log entry 6 takes it. -/
def Obligations.TickDecrementsBothTimers : Prop :=
  ∀ s t : State, t = (hostOp .tickTimers s).1 →
    t.dt.toNat = s.dt.toNat - 1 ∧ t.st.toNat = s.st.toNat - 1 ∧ unchangedExcept [.dt, .st] s t

/-- After `n` ticks with no step between, a timer holds its value less `n`, and 0 once `n` reaches that value
(R234, 44_keypad_timers.md R214). For states with `ERR` set this rests on log entry 6 (60_exceptions.md R263), since R234
leaves a tick after a fatal error unspecified. -/
def Obligations.TimersCountTicksDownToZero : Prop :=
  ∀ (n : Nat) (s t : State), t = hostRun (List.replicate n .tickTimers) s →
    t.dt.toNat = s.dt.toNat - n ∧ t.st.toNat = s.st.toNat - n ∧ unchangedExcept [.dt, .st] s t

/-- `set_key` writes one key slot; `configure_quirks` writes the three quirk bits together; neither writes anything
else (R235, R239). -/
def Obligations.KeyAndQuirkInputsWriteOnlyTheirs : Prop :=
  (∀ (k : Reg) (b : Bool) (s : State),
    (∀ j : Reg, (hostOp (.setKey k b) s).1.keyDown j = if j = k then b else s.keyDown j) ∧
      unchangedExcept [.key] s (hostOp (.setKey k b) s).1) ∧
    ∀ (a b c : Bool) (s : State),
      (hostOp (.configureQuirks a b c) s).1.q = ⟨a, b, c⟩ ∧
        unchangedExcept [.quirks] s (hostOp (.configureQuirks a b c) s).1

/-- The two read-only views change nothing: `framebuffer` lists pixel `(x, y)` at `y * 64 + x`, `sound_timer_active` is
whether `ST` is nonzero (R237, R238). -/
def Obligations.ViewsReadWithoutChange : Prop :=
  ∀ s : State,
    (∃ ps : List Bool, hostOp .framebuffer s = (s, .pixels ps) ∧ ps.length = 2048 ∧
      ∀ x y : Nat, x < 64 → y < 32 → ps[y * 64 + x]? = some (Frame.pixel s.fb x y)) ∧
    hostOp .soundTimerActive s = (s, .bit (decide (0 < s.st.toNat)))

/-- The host's `step` leaves the state the step leaves, and its result is the error that step latched; otherwise it is
`WaitingForKey` when the word at `PC` is `LD Vx, K` and no key is down, and `Continue` for every other step
(R232, R233; 60_exceptions.md R262). A step of a latched machine is `Obligations.ErrorLatchIsSticky`.
That a raise is a next state with `ERR` latched is the model's choice: log entry 2. -/
def Obligations.HostStepAnswersWhatTheStepDid : Prop :=
  ∀ s t : State, step s = .next t →
    (∀ e : Fault, t.err = some e → hostOp .step s = (t, .status (.error e))) ∧
      (t.err = none → ((∃ x : Reg, s.fetch = some (formatXB 0xF x 0x0A)) ∧ ∀ k : Reg, s.keyDown k = false) →
        hostOp .step s = (t, .status .waitingForKey)) ∧
      (t.err = none → ¬ ((∃ x : Reg, s.fetch = some (formatXB 0xF x 0x0A)) ∧ ∀ k : Reg, s.keyDown k = false) →
        hostOp .step s = (t, .status .continued))
end

