-- ==== Sys2Proof/Laws/Decode.lean ====
section
/-! SUPPORT. The fields of a word laid out by a format are the format's operands. -/

namespace Sys2Proof

theorem append_toNat (op : BitVec 4) (r : BitVec 12) : (op ++ r : BitVec 16).toNat = op.toNat * 4096 + r.toNat := by
  rw [BitVec.toNat_append, Nat.shiftLeft_eq, Nat.mul_comm, ← Nat.two_pow_add_eq_or_of_lt r.isLt]

theorem formatA_toNat (op : BitVec 4) (nnn : Addr12) : (formatA op nnn).toNat = op.toNat * 4096 + nnn.toNat :=
  append_toNat op nnn

theorem formatXB_toNat (op : BitVec 4) (x : Reg) (nn : Byte) :
    (formatXB op x nn).toNat = op.toNat * 4096 + x.val * 256 + nn.toNat := by
  have h : (BitVec.ofNat 4 x.val ++ nn : BitVec 12).toNat = x.val * 256 + nn.toNat := by
    rw [BitVec.toNat_append, Nat.shiftLeft_eq, Nat.mul_comm, ← Nat.two_pow_add_eq_or_of_lt nn.isLt]
    simp; omega
  rw [formatXB, append_toNat, h]; omega

theorem formatXYN_toNat (op : BitVec 4) (x y : Reg) (n : BitVec 4) :
    (formatXYN op x y n).toNat = op.toNat * 4096 + x.val * 256 + y.val * 16 + n.toNat := by
  have h1 : (BitVec.ofNat 4 y.val ++ n : BitVec 8).toNat = y.val * 16 + n.toNat := by
    rw [BitVec.toNat_append, Nat.shiftLeft_eq, Nat.mul_comm, ← Nat.two_pow_add_eq_or_of_lt n.isLt]
    simp; omega
  have h : (BitVec.ofNat 4 x.val ++ (BitVec.ofNat 4 y.val ++ n : BitVec 8) : BitVec 12).toNat =
      x.val * 256 + y.val * 16 + n.toNat := by
    rw [BitVec.toNat_append, Nat.shiftLeft_eq, h1, Nat.mul_comm,
      ← Nat.two_pow_add_eq_or_of_lt (show y.val * 16 + n.toNat < 2 ^ 8 by omega)]
    simp; omega
  rw [formatXYN, append_toNat, h]; omega

/-! The fields of a word as quotients and remainders. -/

theorem fieldOp_toNat (w : Word) : (fieldOp w).toNat = w.toNat / 4096 := by
  simp [fieldOp, BitVec.extractLsb'_toNat, Nat.shiftRight_eq_div_pow]
  omega

theorem fieldX_val (w : Word) : (fieldX w).val = w.toNat / 256 % 16 := by
  simp [fieldX, BitVec.extractLsb'_toNat, Nat.shiftRight_eq_div_pow]

theorem fieldY_val (w : Word) : (fieldY w).val = w.toNat / 16 % 16 := by
  simp [fieldY, BitVec.extractLsb'_toNat, Nat.shiftRight_eq_div_pow]

theorem fieldN_toNat (w : Word) : (fieldN w).toNat = w.toNat % 16 := by
  simp [fieldN, BitVec.extractLsb'_toNat]

theorem fieldNN_toNat (w : Word) : (fieldNN w).toNat = w.toNat % 256 := by
  simp [fieldNN, BitVec.extractLsb'_toNat]

theorem fieldNNN_toNat (w : Word) : (fieldNNN w).toNat = w.toNat % 4096 := by
  simp [fieldNNN, BitVec.extractLsb'_toNat]

section formats

variable (op : BitVec 4) (x y : Reg) (nn : Byte) (nnn : Addr12) (n : BitVec 4)

@[simp] theorem fieldOp_formatA : fieldOp (formatA op nnn) = op := by
  apply BitVec.eq_of_toNat_eq; rw [fieldOp_toNat, formatA_toNat]; omega

@[simp] theorem fieldNNN_formatA : fieldNNN (formatA op nnn) = nnn := by
  apply BitVec.eq_of_toNat_eq; rw [fieldNNN_toNat, formatA_toNat]; omega

@[simp] theorem fieldOp_formatXB : fieldOp (formatXB op x nn) = op := by
  apply BitVec.eq_of_toNat_eq; rw [fieldOp_toNat, formatXB_toNat]; omega

@[simp] theorem fieldX_formatXB : fieldX (formatXB op x nn) = x := by
  apply Fin.ext; rw [fieldX_val, formatXB_toNat]; omega

@[simp] theorem fieldNN_formatXB : fieldNN (formatXB op x nn) = nn := by
  apply BitVec.eq_of_toNat_eq; rw [fieldNN_toNat, formatXB_toNat]; omega

@[simp] theorem fieldOp_formatXYN : fieldOp (formatXYN op x y n) = op := by
  apply BitVec.eq_of_toNat_eq; rw [fieldOp_toNat, formatXYN_toNat]; omega

@[simp] theorem fieldX_formatXYN : fieldX (formatXYN op x y n) = x := by
  apply Fin.ext; rw [fieldX_val, formatXYN_toNat]; omega

@[simp] theorem fieldY_formatXYN : fieldY (formatXYN op x y n) = y := by
  apply Fin.ext; rw [fieldY_val, formatXYN_toNat]; omega

@[simp] theorem fieldN_formatXYN : fieldN (formatXYN op x y n) = n := by
  apply BitVec.eq_of_toNat_eq; rw [fieldN_toNat, formatXYN_toNat]; omega

end formats

/-! A word masked to a row's fixed bits fixes the fields the mask selects whole. -/

theorem fieldOp_and (w m : Word) : fieldOp (w &&& m) = fieldOp w &&& fieldOp m := by
  simp [fieldOp, BitVec.extractLsb'_and]

theorem fieldN_and (w m : Word) : fieldN (w &&& m) = fieldN w &&& fieldN m := by
  simp [fieldN, BitVec.extractLsb'_and]

theorem fieldNN_and (w m : Word) : fieldNN (w &&& m) = fieldNN w &&& fieldNN m := by
  simp [fieldNN, BitVec.extractLsb'_and]

theorem fieldOp_of_masked {w m p : Word} (h : w &&& m = p) (hm : fieldOp m = 0xF) : fieldOp w = fieldOp p := by
  rw [← h, fieldOp_and, hm]; exact (BitVec.and_allOnes (x := fieldOp w)).symm

theorem fieldN_of_masked {w m p : Word} (h : w &&& m = p) (hm : fieldN m = 0xF) : fieldN w = fieldN p := by
  rw [← h, fieldN_and, hm]; exact (BitVec.and_allOnes (x := fieldN w)).symm

theorem fieldNN_of_masked {w m p : Word} (h : w &&& m = p) (hm : fieldNN m = 0xFF) : fieldNN w = fieldNN p := by
  rw [← h, fieldNN_and, hm]; exact (BitVec.and_allOnes (x := fieldNN w)).symm

/-- The two bytes of a word give the word back. -/
@[simp] theorem wordOfBytes_bytes (w : Word) : wordOfBytes (highByte w) (lowByte w) = w := by
  apply BitVec.eq_of_toNat_eq
  rw [wordOfBytes, BitVec.toNat_append, Nat.shiftLeft_eq, Nat.mul_comm,
    ← Nat.two_pow_add_eq_or_of_lt (lowByte w).isLt]
  simp [highByte, lowByte, BitVec.extractLsb'_toNat, Nat.shiftRight_eq_div_pow]
  omega

/-- Decoding the bytes of a word decodes the word. -/
theorem decodeBytes_bytesOfWord (w : Word) :
    decodeBytes (bytesOfWord w) =
      match decodeWord w with
      | .ok i => .ok (i, [])
      | .error g => .error (.illegal g w) := by
  cases h : decodeWord w <;> simp only [bytesOfWord, decodeBytes, wordOfBytes_bytes, h]

end Sys2Proof
end

