-- ==== Sys2Proof/Laws/Memory.lean ====
section
/-! SUPPORT. Reading after writing, and that every memory operation keeps the canonical form. -/

namespace Sys2Proof

/-! The parameters as numerals, for simp and omega. -/

@[simp] theorem Config.memSize_eq : Config.memSize = 4096 := rfl
@[simp] theorem Config.lastAddr_eq : Config.lastAddr = 0xFFF := rfl
@[simp] theorem Config.progBase_eq : Config.progBase = 0x200 := rfl
@[simp] theorem Config.progMax_eq : Config.progMax = 3584 := rfl
@[simp] theorem Config.fontBase_eq : Config.fontBase = 0x050 := rfl

end Sys2Proof

namespace Sys2Proof.Machine

theorem read_cellFor_append (a : Nat) (b : Byte) (m : Memory) (c : Nat) (h : ∀ x ∈ m, x.1 ≠ a) :
    Memory.read (cellFor a b ++ m) c = if c = a then b else Memory.read m c := by
  have hm : Memory.read m a = unlisted a := by
    induction m with
    | nil => rfl
    | cons x xs ih =>
      have hx := h x (by simp)
      simp only [Memory.read, if_neg hx]
      exact ih fun y hy => h y (by simp [hy])
  unfold cellFor
  by_cases hb : b = unlisted a
  · by_cases hc : c = a
    · subst hc; simp [hb, hm]
    · simp [hb, hc]
  · by_cases hc : c = a
    · subst hc; simp [hb, Memory.read]
    · simp [hb, Memory.read, hc, Ne.symm hc]

/-- Reading after a write of one byte, in a memory of canonical form. -/
theorem read_write (m : Memory) (a c : Nat) (b : Byte) (h : Memory.wf m) :
    Memory.read (Memory.write m a b) c = if c = a then b else Memory.read m c := by
  induction m with
  | nil => simpa [Memory.write] using read_cellFor_append a b [] c (by simp)
  | cons x xs ih =>
    obtain ⟨k, d⟩ := x
    obtain ⟨hs, hc⟩ := h
    rw [List.pairwise_cons] at hs
    have hxs : Memory.wf xs := ⟨hs.2, fun y hy => hc y (by simp [hy])⟩
    simp only [Memory.write]
    split
    · rename_i hlt
      apply read_cellFor_append
      intro y hy
      rcases List.mem_cons.1 hy with rfl | hy
      · simp only; omega
      · have := hs.1 y hy; simp only at this; omega
    · split
      · rename_i heq
        subst heq
        rw [read_cellFor_append]
        · by_cases hca : c = a
          · simp [hca]
          · simp [Memory.read, hca, Ne.symm hca]
        · intro y hy
          have := hs.1 y hy; simp only at this; omega
      · rename_i h1 h2
        simp only [Memory.read, ih hxs]
        by_cases hkc : k = c
        · subst hkc
          simp [Ne.symm h2]
        · simp [hkc]

/-- The keys of a memory after a write. -/
theorem mem_write (m : Memory) (a : Nat) (b : Byte) (x : Host.Cell) (hx : x ∈ Memory.write m a b) :
    x ∈ m ∨ (x = (a, b) ∧ b ≠ unlisted a) := by
  have hcell : ∀ y ∈ cellFor a b, y = (a, b) ∧ b ≠ unlisted a := by
    intro y hy
    unfold cellFor at hy
    split at hy
    · simp at hy
    · rename_i hb; exact ⟨by simpa using hy, hb⟩
  induction m with
  | nil => exact .inr (hcell x (by simpa [Memory.write] using hx))
  | cons y ys ih =>
    obtain ⟨k, d⟩ := y
    simp only [Memory.write] at hx
    split at hx
    · rcases List.mem_append.1 hx with h | h
      · exact .inr (hcell x h)
      · exact .inl h
    · split at hx
      · rcases List.mem_append.1 hx with h | h
        · exact .inr (hcell x h)
        · exact .inl (by simp [h])
      · rcases List.mem_cons.1 hx with h | h
        · exact .inl (by simp [h])
        · rcases ih h with h | h
          · exact .inl (by simp [h])
          · exact .inr h

/-- Writing a byte inside memory keeps the canonical form. -/
theorem wf_write (m : Memory) (a : Nat) (b : Byte) (ha : a < Config.memSize) (h : Memory.wf m) :
    Memory.wf (Memory.write m a b) := by
  refine ⟨?_, fun x hx => ?_⟩
  · have hcell : ∀ y ∈ cellFor a b, y.1 = a := by
      intro y hy
      unfold cellFor at hy
      split at hy <;> simp_all
    have happ : ∀ l : Memory, l.Pairwise (fun x y => x.1 < y.1) → (∀ x ∈ l, a < x.1) →
        (cellFor a b ++ l).Pairwise (fun x y => x.1 < y.1) := by
      intro l hl hal
      refine List.pairwise_append.2 ⟨?_, hl, fun y hy z hz => by rw [hcell y hy]; exact hal z hz⟩
      unfold cellFor
      split <;> simp
    obtain ⟨hs, -⟩ := h
    induction m with
    | nil => simpa [Memory.write] using happ [] (by simp) (by simp)
    | cons x xs ih =>
      obtain ⟨k, d⟩ := x
      have hs' := List.pairwise_cons.1 hs
      simp only [Memory.write]
      split
      · rename_i hlt
        refine happ _ hs fun y hy => ?_
        rcases List.mem_cons.1 hy with rfl | hy
        · exact hlt
        · exact Nat.lt_trans hlt (hs'.1 y hy)
      · split
        · rename_i heq
          subst heq
          exact happ _ hs'.2 hs'.1
        · rename_i h1 h2
          refine List.pairwise_cons.2 ⟨fun y hy => ?_, ih hs'.2⟩
          rcases mem_write xs a b y hy with hy | ⟨rfl, -⟩
          · exact hs'.1 y hy
          · simp only; omega
  · rcases mem_write m a b x hx with hx | ⟨rfl, hb⟩
    · exact h.2 x hx
    · exact ⟨ha, hb⟩

/-- Storing bytes inside memory keeps the canonical form. -/
theorem wf_writeBytes (bs : List Byte) : ∀ (m : Memory) (a : Nat), a + bs.length ≤ Config.memSize → Memory.wf m →
    Memory.wf (Memory.writeBytes m a bs) := by
  induction bs with
  | nil => intro m a _ h; exact h
  | cons b bs ih =>
    intro m a ha h
    simp only [List.length_cons] at ha
    exact ih _ _ (by omega) (wf_write m a b (by omega) h)

/-- Reading after bytes were stored inside memory. -/
theorem read_writeBytes (bs : List Byte) : ∀ (m : Memory) (a c : Nat), a + bs.length ≤ Config.memSize → Memory.wf m →
    Memory.read (Memory.writeBytes m a bs) c =
      if a ≤ c ∧ c < a + bs.length then bs.getD (c - a) 0 else Memory.read m c := by
  induction bs with
  | nil => intro m a c _ _; simp [Memory.writeBytes]
  | cons b bs ih =>
    intro m a c ha h
    simp only [List.length_cons] at ha
    simp only [Memory.writeBytes, List.length_cons]
    rw [ih _ _ _ (by omega) (wf_write m a b (by omega) h), read_write m a c b h]
    by_cases hc : c = a
    · subst hc; simp
    · by_cases hr : a ≤ c ∧ c < a + (bs.length + 1)
      · obtain ⟨n, hn⟩ : ∃ n, c - a = n + 1 := ⟨c - a - 1, by omega⟩
        rw [if_pos (by omega), if_pos hr, hn, show c - (a + 1) = n by omega]
        simp
      · rw [if_neg (by omega), if_neg hc, if_neg hr]

/-- Bytes outside the stored range are unchanged, whatever the memory's form. -/
theorem read_write_other (m : Memory) (a c : Nat) (b : Byte) (hc : c ≠ a) :
    Memory.read (Memory.write m a b) c = Memory.read m c := by
  have hcell : ∀ l, Memory.read (cellFor a b ++ l) c = Memory.read l c := by
    intro l
    unfold cellFor
    split
    · rfl
    · simp [Memory.read, Ne.symm hc]
  induction m with
  | nil => simpa [Memory.write] using hcell []
  | cons x xs ih =>
    obtain ⟨k, d⟩ := x
    simp only [Memory.write]
    split
    · exact hcell _
    · split
      · rename_i heq
        subst heq
        rw [hcell]
        simp [Memory.read, Ne.symm hc]
      · simp only [Memory.read, ih]

theorem read_writeBytes_outside (bs : List Byte) : ∀ (m : Memory) (a c : Nat), (c < a ∨ a + bs.length ≤ c) →
    Memory.read (Memory.writeBytes m a bs) c = Memory.read m c := by
  induction bs with
  | nil => intro m a c _; rfl
  | cons b bs ih =>
    intro m a c h
    simp only [List.length_cons] at h
    simp only [Memory.writeBytes]
    rw [ih _ _ _ (by omega), read_write_other m a c b (by omega)]

/-- The memory of the reset state has the canonical form. -/
theorem wf_reset : Memory.wf State.reset.mem := by decide

@[simp] theorem readBytes_length (m : Memory) (a n : Nat) : (Memory.readBytes m a n).length = n := by
  simp [Memory.readBytes]

/-- Byte `r` of a range read. -/
theorem readBytes_getD (m : Memory) (a n r : Nat) (h : r < n) :
    (Memory.readBytes m a n).getD r 0 = Memory.read m (a + r) := by
  simp [Memory.readBytes, h]

/-- A range is in bounds when it is empty or ends inside memory. -/
theorem inBounds_iff (a n : Nat) : inBounds a n = true ↔ n = 0 ∨ a + n ≤ Config.memSize := by
  simp only [inBounds, Bool.or_eq_true, beq_iff_eq, decide_eq_true_eq, Config.lastAddr, Config.memSize]
  omega

end Sys2Proof.Machine
end

