-- ==== Sys2Proof/Laws/State.lean ====
section
/-! SUPPORT. What each update does to each field of the state, true by unfolding, for simp. -/

namespace Sys2Proof.Machine

variable (s : State)

@[simp] theorem State.setV_v (x : Reg) (b : Byte) : (s.setV x b).v = s.v.set x b := rfl
@[simp] theorem State.setV_i (x : Reg) (b : Byte) : (s.setV x b).i = s.i := rfl
@[simp] theorem State.setV_pc (x : Reg) (b : Byte) : (s.setV x b).pc = s.pc := rfl
@[simp] theorem State.setV_sp (x : Reg) (b : Byte) : (s.setV x b).sp = s.sp := rfl
@[simp] theorem State.setV_stack (x : Reg) (b : Byte) : (s.setV x b).stack = s.stack := rfl
@[simp] theorem State.setV_dt (x : Reg) (b : Byte) : (s.setV x b).dt = s.dt := rfl
@[simp] theorem State.setV_st (x : Reg) (b : Byte) : (s.setV x b).st = s.st := rfl
@[simp] theorem State.setV_mem (x : Reg) (b : Byte) : (s.setV x b).mem = s.mem := rfl
@[simp] theorem State.setV_fb (x : Reg) (b : Byte) : (s.setV x b).fb = s.fb := rfl
@[simp] theorem State.setV_key (x : Reg) (b : Byte) : (s.setV x b).key = s.key := rfl
@[simp] theorem State.setV_q (x : Reg) (b : Byte) : (s.setV x b).q = s.q := rfl
@[simp] theorem State.setV_err (x : Reg) (b : Byte) : (s.setV x b).err = s.err := rfl
@[simp] theorem State.setV_draws (x : Reg) (b : Byte) : (s.setV x b).draws = s.draws := rfl
@[simp] theorem State.setV_stackAt (x : Reg) (b : Byte) (c : Reg) : (s.setV x b).stackAt c = s.stackAt c := rfl
@[simp] theorem State.setV_keyDown (x : Reg) (b : Byte) (c : Reg) : (s.setV x b).keyDown c = s.keyDown c := rfl
@[simp] theorem State.setV_byteAt (x : Reg) (b : Byte) (a : Nat) : (s.setV x b).byteAt a = s.byteAt a := rfl

@[simp] theorem State.setVs_v (vs : Vector Byte 16) : (s.setVs vs).v = vs := rfl
@[simp] theorem State.setVs_i (vs : Vector Byte 16) : (s.setVs vs).i = s.i := rfl
@[simp] theorem State.setVs_pc (vs : Vector Byte 16) : (s.setVs vs).pc = s.pc := rfl
@[simp] theorem State.setVs_sp (vs : Vector Byte 16) : (s.setVs vs).sp = s.sp := rfl
@[simp] theorem State.setVs_stack (vs : Vector Byte 16) : (s.setVs vs).stack = s.stack := rfl
@[simp] theorem State.setVs_dt (vs : Vector Byte 16) : (s.setVs vs).dt = s.dt := rfl
@[simp] theorem State.setVs_st (vs : Vector Byte 16) : (s.setVs vs).st = s.st := rfl
@[simp] theorem State.setVs_mem (vs : Vector Byte 16) : (s.setVs vs).mem = s.mem := rfl
@[simp] theorem State.setVs_fb (vs : Vector Byte 16) : (s.setVs vs).fb = s.fb := rfl
@[simp] theorem State.setVs_key (vs : Vector Byte 16) : (s.setVs vs).key = s.key := rfl
@[simp] theorem State.setVs_q (vs : Vector Byte 16) : (s.setVs vs).q = s.q := rfl
@[simp] theorem State.setVs_err (vs : Vector Byte 16) : (s.setVs vs).err = s.err := rfl
@[simp] theorem State.setVs_draws (vs : Vector Byte 16) : (s.setVs vs).draws = s.draws := rfl
@[simp] theorem State.setVs_stackAt (vs : Vector Byte 16) (c : Reg) : (s.setVs vs).stackAt c = s.stackAt c := rfl
@[simp] theorem State.setVs_keyDown (vs : Vector Byte 16) (c : Reg) : (s.setVs vs).keyDown c = s.keyDown c := rfl
@[simp] theorem State.setVs_byteAt (vs : Vector Byte 16) (a : Nat) : (s.setVs vs).byteAt a = s.byteAt a := rfl

@[simp] theorem State.setI_v (w : Word) : (s.setI w).v = s.v := rfl
@[simp] theorem State.setI_i (w : Word) : (s.setI w).i = w := rfl
@[simp] theorem State.setI_pc (w : Word) : (s.setI w).pc = s.pc := rfl
@[simp] theorem State.setI_sp (w : Word) : (s.setI w).sp = s.sp := rfl
@[simp] theorem State.setI_stack (w : Word) : (s.setI w).stack = s.stack := rfl
@[simp] theorem State.setI_dt (w : Word) : (s.setI w).dt = s.dt := rfl
@[simp] theorem State.setI_st (w : Word) : (s.setI w).st = s.st := rfl
@[simp] theorem State.setI_mem (w : Word) : (s.setI w).mem = s.mem := rfl
@[simp] theorem State.setI_fb (w : Word) : (s.setI w).fb = s.fb := rfl
@[simp] theorem State.setI_key (w : Word) : (s.setI w).key = s.key := rfl
@[simp] theorem State.setI_q (w : Word) : (s.setI w).q = s.q := rfl
@[simp] theorem State.setI_err (w : Word) : (s.setI w).err = s.err := rfl
@[simp] theorem State.setI_draws (w : Word) : (s.setI w).draws = s.draws := rfl
@[simp] theorem State.setI_reg (w : Word) (r : Reg) : (s.setI w).reg r = s.reg r := rfl
@[simp] theorem State.setI_stackAt (w : Word) (c : Reg) : (s.setI w).stackAt c = s.stackAt c := rfl
@[simp] theorem State.setI_keyDown (w : Word) (c : Reg) : (s.setI w).keyDown c = s.keyDown c := rfl
@[simp] theorem State.setI_byteAt (w : Word) (a : Nat) : (s.setI w).byteAt a = s.byteAt a := rfl

@[simp] theorem State.setPc_v (w : Word) : (s.setPc w).v = s.v := rfl
@[simp] theorem State.setPc_i (w : Word) : (s.setPc w).i = s.i := rfl
@[simp] theorem State.setPc_pc (w : Word) : (s.setPc w).pc = w := rfl
@[simp] theorem State.setPc_sp (w : Word) : (s.setPc w).sp = s.sp := rfl
@[simp] theorem State.setPc_stack (w : Word) : (s.setPc w).stack = s.stack := rfl
@[simp] theorem State.setPc_dt (w : Word) : (s.setPc w).dt = s.dt := rfl
@[simp] theorem State.setPc_st (w : Word) : (s.setPc w).st = s.st := rfl
@[simp] theorem State.setPc_mem (w : Word) : (s.setPc w).mem = s.mem := rfl
@[simp] theorem State.setPc_fb (w : Word) : (s.setPc w).fb = s.fb := rfl
@[simp] theorem State.setPc_key (w : Word) : (s.setPc w).key = s.key := rfl
@[simp] theorem State.setPc_q (w : Word) : (s.setPc w).q = s.q := rfl
@[simp] theorem State.setPc_err (w : Word) : (s.setPc w).err = s.err := rfl
@[simp] theorem State.setPc_draws (w : Word) : (s.setPc w).draws = s.draws := rfl
@[simp] theorem State.setPc_reg (w : Word) (r : Reg) : (s.setPc w).reg r = s.reg r := rfl
@[simp] theorem State.setPc_stackAt (w : Word) (c : Reg) : (s.setPc w).stackAt c = s.stackAt c := rfl
@[simp] theorem State.setPc_keyDown (w : Word) (c : Reg) : (s.setPc w).keyDown c = s.keyDown c := rfl
@[simp] theorem State.setPc_byteAt (w : Word) (a : Nat) : (s.setPc w).byteAt a = s.byteAt a := rfl

@[simp] theorem State.setSp_v (b : Byte) : (s.setSp b).v = s.v := rfl
@[simp] theorem State.setSp_i (b : Byte) : (s.setSp b).i = s.i := rfl
@[simp] theorem State.setSp_pc (b : Byte) : (s.setSp b).pc = s.pc := rfl
@[simp] theorem State.setSp_sp (b : Byte) : (s.setSp b).sp = b := rfl
@[simp] theorem State.setSp_stack (b : Byte) : (s.setSp b).stack = s.stack := rfl
@[simp] theorem State.setSp_dt (b : Byte) : (s.setSp b).dt = s.dt := rfl
@[simp] theorem State.setSp_st (b : Byte) : (s.setSp b).st = s.st := rfl
@[simp] theorem State.setSp_mem (b : Byte) : (s.setSp b).mem = s.mem := rfl
@[simp] theorem State.setSp_fb (b : Byte) : (s.setSp b).fb = s.fb := rfl
@[simp] theorem State.setSp_key (b : Byte) : (s.setSp b).key = s.key := rfl
@[simp] theorem State.setSp_q (b : Byte) : (s.setSp b).q = s.q := rfl
@[simp] theorem State.setSp_err (b : Byte) : (s.setSp b).err = s.err := rfl
@[simp] theorem State.setSp_draws (b : Byte) : (s.setSp b).draws = s.draws := rfl
@[simp] theorem State.setSp_reg (b : Byte) (r : Reg) : (s.setSp b).reg r = s.reg r := rfl
@[simp] theorem State.setSp_stackAt (b : Byte) (c : Reg) : (s.setSp b).stackAt c = s.stackAt c := rfl
@[simp] theorem State.setSp_keyDown (b : Byte) (c : Reg) : (s.setSp b).keyDown c = s.keyDown c := rfl
@[simp] theorem State.setSp_byteAt (b : Byte) (a : Nat) : (s.setSp b).byteAt a = s.byteAt a := rfl

@[simp] theorem State.setStack_v (k : Reg) (w : Word) : (s.setStack k w).v = s.v := rfl
@[simp] theorem State.setStack_i (k : Reg) (w : Word) : (s.setStack k w).i = s.i := rfl
@[simp] theorem State.setStack_pc (k : Reg) (w : Word) : (s.setStack k w).pc = s.pc := rfl
@[simp] theorem State.setStack_sp (k : Reg) (w : Word) : (s.setStack k w).sp = s.sp := rfl
@[simp] theorem State.setStack_stack (k : Reg) (w : Word) : (s.setStack k w).stack = s.stack.set k w := rfl
@[simp] theorem State.setStack_dt (k : Reg) (w : Word) : (s.setStack k w).dt = s.dt := rfl
@[simp] theorem State.setStack_st (k : Reg) (w : Word) : (s.setStack k w).st = s.st := rfl
@[simp] theorem State.setStack_mem (k : Reg) (w : Word) : (s.setStack k w).mem = s.mem := rfl
@[simp] theorem State.setStack_fb (k : Reg) (w : Word) : (s.setStack k w).fb = s.fb := rfl
@[simp] theorem State.setStack_key (k : Reg) (w : Word) : (s.setStack k w).key = s.key := rfl
@[simp] theorem State.setStack_q (k : Reg) (w : Word) : (s.setStack k w).q = s.q := rfl
@[simp] theorem State.setStack_err (k : Reg) (w : Word) : (s.setStack k w).err = s.err := rfl
@[simp] theorem State.setStack_draws (k : Reg) (w : Word) : (s.setStack k w).draws = s.draws := rfl
@[simp] theorem State.setStack_reg (k : Reg) (w : Word) (r : Reg) : (s.setStack k w).reg r = s.reg r := rfl
@[simp] theorem State.setStack_keyDown (k : Reg) (w : Word) (c : Reg) : (s.setStack k w).keyDown c = s.keyDown c := rfl
@[simp] theorem State.setStack_byteAt (k : Reg) (w : Word) (a : Nat) : (s.setStack k w).byteAt a = s.byteAt a := rfl

@[simp] theorem State.setDt_v (b : Byte) : (s.setDt b).v = s.v := rfl
@[simp] theorem State.setDt_i (b : Byte) : (s.setDt b).i = s.i := rfl
@[simp] theorem State.setDt_pc (b : Byte) : (s.setDt b).pc = s.pc := rfl
@[simp] theorem State.setDt_sp (b : Byte) : (s.setDt b).sp = s.sp := rfl
@[simp] theorem State.setDt_stack (b : Byte) : (s.setDt b).stack = s.stack := rfl
@[simp] theorem State.setDt_dt (b : Byte) : (s.setDt b).dt = b := rfl
@[simp] theorem State.setDt_st (b : Byte) : (s.setDt b).st = s.st := rfl
@[simp] theorem State.setDt_mem (b : Byte) : (s.setDt b).mem = s.mem := rfl
@[simp] theorem State.setDt_fb (b : Byte) : (s.setDt b).fb = s.fb := rfl
@[simp] theorem State.setDt_key (b : Byte) : (s.setDt b).key = s.key := rfl
@[simp] theorem State.setDt_q (b : Byte) : (s.setDt b).q = s.q := rfl
@[simp] theorem State.setDt_err (b : Byte) : (s.setDt b).err = s.err := rfl
@[simp] theorem State.setDt_draws (b : Byte) : (s.setDt b).draws = s.draws := rfl
@[simp] theorem State.setDt_reg (b : Byte) (r : Reg) : (s.setDt b).reg r = s.reg r := rfl
@[simp] theorem State.setDt_stackAt (b : Byte) (c : Reg) : (s.setDt b).stackAt c = s.stackAt c := rfl
@[simp] theorem State.setDt_keyDown (b : Byte) (c : Reg) : (s.setDt b).keyDown c = s.keyDown c := rfl
@[simp] theorem State.setDt_byteAt (b : Byte) (a : Nat) : (s.setDt b).byteAt a = s.byteAt a := rfl

@[simp] theorem State.setSt_v (b : Byte) : (s.setSt b).v = s.v := rfl
@[simp] theorem State.setSt_i (b : Byte) : (s.setSt b).i = s.i := rfl
@[simp] theorem State.setSt_pc (b : Byte) : (s.setSt b).pc = s.pc := rfl
@[simp] theorem State.setSt_sp (b : Byte) : (s.setSt b).sp = s.sp := rfl
@[simp] theorem State.setSt_stack (b : Byte) : (s.setSt b).stack = s.stack := rfl
@[simp] theorem State.setSt_dt (b : Byte) : (s.setSt b).dt = s.dt := rfl
@[simp] theorem State.setSt_st (b : Byte) : (s.setSt b).st = b := rfl
@[simp] theorem State.setSt_mem (b : Byte) : (s.setSt b).mem = s.mem := rfl
@[simp] theorem State.setSt_fb (b : Byte) : (s.setSt b).fb = s.fb := rfl
@[simp] theorem State.setSt_key (b : Byte) : (s.setSt b).key = s.key := rfl
@[simp] theorem State.setSt_q (b : Byte) : (s.setSt b).q = s.q := rfl
@[simp] theorem State.setSt_err (b : Byte) : (s.setSt b).err = s.err := rfl
@[simp] theorem State.setSt_draws (b : Byte) : (s.setSt b).draws = s.draws := rfl
@[simp] theorem State.setSt_reg (b : Byte) (r : Reg) : (s.setSt b).reg r = s.reg r := rfl
@[simp] theorem State.setSt_stackAt (b : Byte) (c : Reg) : (s.setSt b).stackAt c = s.stackAt c := rfl
@[simp] theorem State.setSt_keyDown (b : Byte) (c : Reg) : (s.setSt b).keyDown c = s.keyDown c := rfl
@[simp] theorem State.setSt_byteAt (b : Byte) (a : Nat) : (s.setSt b).byteAt a = s.byteAt a := rfl

@[simp] theorem State.setMem_v (m : Memory) : (s.setMem m).v = s.v := rfl
@[simp] theorem State.setMem_i (m : Memory) : (s.setMem m).i = s.i := rfl
@[simp] theorem State.setMem_pc (m : Memory) : (s.setMem m).pc = s.pc := rfl
@[simp] theorem State.setMem_sp (m : Memory) : (s.setMem m).sp = s.sp := rfl
@[simp] theorem State.setMem_stack (m : Memory) : (s.setMem m).stack = s.stack := rfl
@[simp] theorem State.setMem_dt (m : Memory) : (s.setMem m).dt = s.dt := rfl
@[simp] theorem State.setMem_st (m : Memory) : (s.setMem m).st = s.st := rfl
@[simp] theorem State.setMem_mem (m : Memory) : (s.setMem m).mem = m := rfl
@[simp] theorem State.setMem_fb (m : Memory) : (s.setMem m).fb = s.fb := rfl
@[simp] theorem State.setMem_key (m : Memory) : (s.setMem m).key = s.key := rfl
@[simp] theorem State.setMem_q (m : Memory) : (s.setMem m).q = s.q := rfl
@[simp] theorem State.setMem_err (m : Memory) : (s.setMem m).err = s.err := rfl
@[simp] theorem State.setMem_draws (m : Memory) : (s.setMem m).draws = s.draws := rfl
@[simp] theorem State.setMem_reg (m : Memory) (r : Reg) : (s.setMem m).reg r = s.reg r := rfl
@[simp] theorem State.setMem_stackAt (m : Memory) (c : Reg) : (s.setMem m).stackAt c = s.stackAt c := rfl
@[simp] theorem State.setMem_keyDown (m : Memory) (c : Reg) : (s.setMem m).keyDown c = s.keyDown c := rfl

@[simp] theorem State.setFb_v (f : Frame) : (s.setFb f).v = s.v := rfl
@[simp] theorem State.setFb_i (f : Frame) : (s.setFb f).i = s.i := rfl
@[simp] theorem State.setFb_pc (f : Frame) : (s.setFb f).pc = s.pc := rfl
@[simp] theorem State.setFb_sp (f : Frame) : (s.setFb f).sp = s.sp := rfl
@[simp] theorem State.setFb_stack (f : Frame) : (s.setFb f).stack = s.stack := rfl
@[simp] theorem State.setFb_dt (f : Frame) : (s.setFb f).dt = s.dt := rfl
@[simp] theorem State.setFb_st (f : Frame) : (s.setFb f).st = s.st := rfl
@[simp] theorem State.setFb_mem (f : Frame) : (s.setFb f).mem = s.mem := rfl
@[simp] theorem State.setFb_fb (f : Frame) : (s.setFb f).fb = f := rfl
@[simp] theorem State.setFb_key (f : Frame) : (s.setFb f).key = s.key := rfl
@[simp] theorem State.setFb_q (f : Frame) : (s.setFb f).q = s.q := rfl
@[simp] theorem State.setFb_err (f : Frame) : (s.setFb f).err = s.err := rfl
@[simp] theorem State.setFb_draws (f : Frame) : (s.setFb f).draws = s.draws := rfl
@[simp] theorem State.setFb_reg (f : Frame) (r : Reg) : (s.setFb f).reg r = s.reg r := rfl
@[simp] theorem State.setFb_stackAt (f : Frame) (c : Reg) : (s.setFb f).stackAt c = s.stackAt c := rfl
@[simp] theorem State.setFb_keyDown (f : Frame) (c : Reg) : (s.setFb f).keyDown c = s.keyDown c := rfl
@[simp] theorem State.setFb_byteAt (f : Frame) (a : Nat) : (s.setFb f).byteAt a = s.byteAt a := rfl

@[simp] theorem State.setKeyBit_v (k : Reg) (b : Bool) : (s.setKeyBit k b).v = s.v := rfl
@[simp] theorem State.setKeyBit_i (k : Reg) (b : Bool) : (s.setKeyBit k b).i = s.i := rfl
@[simp] theorem State.setKeyBit_pc (k : Reg) (b : Bool) : (s.setKeyBit k b).pc = s.pc := rfl
@[simp] theorem State.setKeyBit_sp (k : Reg) (b : Bool) : (s.setKeyBit k b).sp = s.sp := rfl
@[simp] theorem State.setKeyBit_stack (k : Reg) (b : Bool) : (s.setKeyBit k b).stack = s.stack := rfl
@[simp] theorem State.setKeyBit_dt (k : Reg) (b : Bool) : (s.setKeyBit k b).dt = s.dt := rfl
@[simp] theorem State.setKeyBit_st (k : Reg) (b : Bool) : (s.setKeyBit k b).st = s.st := rfl
@[simp] theorem State.setKeyBit_mem (k : Reg) (b : Bool) : (s.setKeyBit k b).mem = s.mem := rfl
@[simp] theorem State.setKeyBit_fb (k : Reg) (b : Bool) : (s.setKeyBit k b).fb = s.fb := rfl
@[simp] theorem State.setKeyBit_key (k : Reg) (b : Bool) : (s.setKeyBit k b).key = s.key.set k b := rfl
@[simp] theorem State.setKeyBit_q (k : Reg) (b : Bool) : (s.setKeyBit k b).q = s.q := rfl
@[simp] theorem State.setKeyBit_err (k : Reg) (b : Bool) : (s.setKeyBit k b).err = s.err := rfl
@[simp] theorem State.setKeyBit_draws (k : Reg) (b : Bool) : (s.setKeyBit k b).draws = s.draws := rfl
@[simp] theorem State.setKeyBit_reg (k : Reg) (b : Bool) (r : Reg) : (s.setKeyBit k b).reg r = s.reg r := rfl
@[simp] theorem State.setKeyBit_stackAt (k : Reg) (b : Bool) (c : Reg) : (s.setKeyBit k b).stackAt c = s.stackAt c := rfl
@[simp] theorem State.setKeyBit_byteAt (k : Reg) (b : Bool) (a : Nat) : (s.setKeyBit k b).byteAt a = s.byteAt a := rfl

@[simp] theorem State.setQ_v (q : Quirks) : (s.setQ q).v = s.v := rfl
@[simp] theorem State.setQ_i (q : Quirks) : (s.setQ q).i = s.i := rfl
@[simp] theorem State.setQ_pc (q : Quirks) : (s.setQ q).pc = s.pc := rfl
@[simp] theorem State.setQ_sp (q : Quirks) : (s.setQ q).sp = s.sp := rfl
@[simp] theorem State.setQ_stack (q : Quirks) : (s.setQ q).stack = s.stack := rfl
@[simp] theorem State.setQ_dt (q : Quirks) : (s.setQ q).dt = s.dt := rfl
@[simp] theorem State.setQ_st (q : Quirks) : (s.setQ q).st = s.st := rfl
@[simp] theorem State.setQ_mem (q : Quirks) : (s.setQ q).mem = s.mem := rfl
@[simp] theorem State.setQ_fb (q : Quirks) : (s.setQ q).fb = s.fb := rfl
@[simp] theorem State.setQ_key (q : Quirks) : (s.setQ q).key = s.key := rfl
@[simp] theorem State.setQ_q (q : Quirks) : (s.setQ q).q = q := rfl
@[simp] theorem State.setQ_err (q : Quirks) : (s.setQ q).err = s.err := rfl
@[simp] theorem State.setQ_draws (q : Quirks) : (s.setQ q).draws = s.draws := rfl
@[simp] theorem State.setQ_reg (q : Quirks) (r : Reg) : (s.setQ q).reg r = s.reg r := rfl
@[simp] theorem State.setQ_stackAt (q : Quirks) (c : Reg) : (s.setQ q).stackAt c = s.stackAt c := rfl
@[simp] theorem State.setQ_keyDown (q : Quirks) (c : Reg) : (s.setQ q).keyDown c = s.keyDown c := rfl
@[simp] theorem State.setQ_byteAt (q : Quirks) (a : Nat) : (s.setQ q).byteAt a = s.byteAt a := rfl

@[simp] theorem State.setErr_v (e : Option Fault) : (s.setErr e).v = s.v := rfl
@[simp] theorem State.setErr_i (e : Option Fault) : (s.setErr e).i = s.i := rfl
@[simp] theorem State.setErr_pc (e : Option Fault) : (s.setErr e).pc = s.pc := rfl
@[simp] theorem State.setErr_sp (e : Option Fault) : (s.setErr e).sp = s.sp := rfl
@[simp] theorem State.setErr_stack (e : Option Fault) : (s.setErr e).stack = s.stack := rfl
@[simp] theorem State.setErr_dt (e : Option Fault) : (s.setErr e).dt = s.dt := rfl
@[simp] theorem State.setErr_st (e : Option Fault) : (s.setErr e).st = s.st := rfl
@[simp] theorem State.setErr_mem (e : Option Fault) : (s.setErr e).mem = s.mem := rfl
@[simp] theorem State.setErr_fb (e : Option Fault) : (s.setErr e).fb = s.fb := rfl
@[simp] theorem State.setErr_key (e : Option Fault) : (s.setErr e).key = s.key := rfl
@[simp] theorem State.setErr_q (e : Option Fault) : (s.setErr e).q = s.q := rfl
@[simp] theorem State.setErr_err (e : Option Fault) : (s.setErr e).err = e := rfl
@[simp] theorem State.setErr_draws (e : Option Fault) : (s.setErr e).draws = s.draws := rfl
@[simp] theorem State.setErr_reg (e : Option Fault) (r : Reg) : (s.setErr e).reg r = s.reg r := rfl
@[simp] theorem State.setErr_stackAt (e : Option Fault) (c : Reg) : (s.setErr e).stackAt c = s.stackAt c := rfl
@[simp] theorem State.setErr_keyDown (e : Option Fault) (c : Reg) : (s.setErr e).keyDown c = s.keyDown c := rfl
@[simp] theorem State.setErr_byteAt (e : Option Fault) (a : Nat) : (s.setErr e).byteAt a = s.byteAt a := rfl

@[simp] theorem State.raise_v (e : Fault) : (s.raise e).v = s.v := rfl
@[simp] theorem State.raise_i (e : Fault) : (s.raise e).i = s.i := rfl
@[simp] theorem State.raise_pc (e : Fault) : (s.raise e).pc = s.pc := rfl
@[simp] theorem State.raise_sp (e : Fault) : (s.raise e).sp = s.sp := rfl
@[simp] theorem State.raise_stack (e : Fault) : (s.raise e).stack = s.stack := rfl
@[simp] theorem State.raise_dt (e : Fault) : (s.raise e).dt = s.dt := rfl
@[simp] theorem State.raise_st (e : Fault) : (s.raise e).st = s.st := rfl
@[simp] theorem State.raise_mem (e : Fault) : (s.raise e).mem = s.mem := rfl
@[simp] theorem State.raise_fb (e : Fault) : (s.raise e).fb = s.fb := rfl
@[simp] theorem State.raise_key (e : Fault) : (s.raise e).key = s.key := rfl
@[simp] theorem State.raise_q (e : Fault) : (s.raise e).q = s.q := rfl
@[simp] theorem State.raise_err (e : Fault) : (s.raise e).err = some e := rfl
@[simp] theorem State.raise_draws (e : Fault) : (s.raise e).draws = s.draws := rfl
@[simp] theorem State.raise_reg (e : Fault) (r : Reg) : (s.raise e).reg r = s.reg r := rfl
@[simp] theorem State.raise_stackAt (e : Fault) (c : Reg) : (s.raise e).stackAt c = s.stackAt c := rfl
@[simp] theorem State.raise_keyDown (e : Fault) (c : Reg) : (s.raise e).keyDown c = s.keyDown c := rfl
@[simp] theorem State.raise_byteAt (e : Fault) (a : Nat) : (s.raise e).byteAt a = s.byteAt a := rfl

@[simp] theorem State.countDraw_v : (s.countDraw).v = s.v := rfl
@[simp] theorem State.countDraw_i : (s.countDraw).i = s.i := rfl
@[simp] theorem State.countDraw_pc : (s.countDraw).pc = s.pc := rfl
@[simp] theorem State.countDraw_sp : (s.countDraw).sp = s.sp := rfl
@[simp] theorem State.countDraw_stack : (s.countDraw).stack = s.stack := rfl
@[simp] theorem State.countDraw_dt : (s.countDraw).dt = s.dt := rfl
@[simp] theorem State.countDraw_st : (s.countDraw).st = s.st := rfl
@[simp] theorem State.countDraw_mem : (s.countDraw).mem = s.mem := rfl
@[simp] theorem State.countDraw_fb : (s.countDraw).fb = s.fb := rfl
@[simp] theorem State.countDraw_key : (s.countDraw).key = s.key := rfl
@[simp] theorem State.countDraw_q : (s.countDraw).q = s.q := rfl
@[simp] theorem State.countDraw_err : (s.countDraw).err = s.err := rfl
@[simp] theorem State.countDraw_draws : (s.countDraw).draws = s.draws + 1 := rfl
@[simp] theorem State.countDraw_reg (r : Reg) : (s.countDraw).reg r = s.reg r := rfl
@[simp] theorem State.countDraw_stackAt (c : Reg) : (s.countDraw).stackAt c = s.stackAt c := rfl
@[simp] theorem State.countDraw_keyDown (c : Reg) : (s.countDraw).keyDown c = s.keyDown c := rfl
@[simp] theorem State.countDraw_byteAt (a : Nat) : (s.countDraw).byteAt a = s.byteAt a := rfl

@[simp] theorem State.advance_v : (s.advance).v = s.v := rfl
@[simp] theorem State.advance_i : (s.advance).i = s.i := rfl
@[simp] theorem State.advance_pc : (s.advance).pc = s.pc + 2 := rfl
@[simp] theorem State.advance_sp : (s.advance).sp = s.sp := rfl
@[simp] theorem State.advance_stack : (s.advance).stack = s.stack := rfl
@[simp] theorem State.advance_dt : (s.advance).dt = s.dt := rfl
@[simp] theorem State.advance_st : (s.advance).st = s.st := rfl
@[simp] theorem State.advance_mem : (s.advance).mem = s.mem := rfl
@[simp] theorem State.advance_fb : (s.advance).fb = s.fb := rfl
@[simp] theorem State.advance_key : (s.advance).key = s.key := rfl
@[simp] theorem State.advance_q : (s.advance).q = s.q := rfl
@[simp] theorem State.advance_err : (s.advance).err = s.err := rfl
@[simp] theorem State.advance_draws : (s.advance).draws = s.draws := rfl
@[simp] theorem State.advance_reg (r : Reg) : (s.advance).reg r = s.reg r := rfl
@[simp] theorem State.advance_stackAt (c : Reg) : (s.advance).stackAt c = s.stackAt c := rfl
@[simp] theorem State.advance_keyDown (c : Reg) : (s.advance).keyDown c = s.keyDown c := rfl
@[simp] theorem State.advance_byteAt (a : Nat) : (s.advance).byteAt a = s.byteAt a := rfl

@[simp] theorem State.setFlag_v (f : Bool) : (s.setFlag f).v = s.v.set vf (flagByte f) := rfl
@[simp] theorem State.setFlag_i (f : Bool) : (s.setFlag f).i = s.i := rfl
@[simp] theorem State.setFlag_pc (f : Bool) : (s.setFlag f).pc = s.pc := rfl
@[simp] theorem State.setFlag_sp (f : Bool) : (s.setFlag f).sp = s.sp := rfl
@[simp] theorem State.setFlag_stack (f : Bool) : (s.setFlag f).stack = s.stack := rfl
@[simp] theorem State.setFlag_dt (f : Bool) : (s.setFlag f).dt = s.dt := rfl
@[simp] theorem State.setFlag_st (f : Bool) : (s.setFlag f).st = s.st := rfl
@[simp] theorem State.setFlag_mem (f : Bool) : (s.setFlag f).mem = s.mem := rfl
@[simp] theorem State.setFlag_fb (f : Bool) : (s.setFlag f).fb = s.fb := rfl
@[simp] theorem State.setFlag_key (f : Bool) : (s.setFlag f).key = s.key := rfl
@[simp] theorem State.setFlag_q (f : Bool) : (s.setFlag f).q = s.q := rfl
@[simp] theorem State.setFlag_err (f : Bool) : (s.setFlag f).err = s.err := rfl
@[simp] theorem State.setFlag_draws (f : Bool) : (s.setFlag f).draws = s.draws := rfl
@[simp] theorem State.setFlag_stackAt (f : Bool) (c : Reg) : (s.setFlag f).stackAt c = s.stackAt c := rfl
@[simp] theorem State.setFlag_keyDown (f : Bool) (c : Reg) : (s.setFlag f).keyDown c = s.keyDown c := rfl
@[simp] theorem State.setFlag_byteAt (f : Bool) (a : Nat) : (s.setFlag f).byteAt a = s.byteAt a := rfl

/-! The reset operation, field by field (70_reset_and_hazards.md R300). -/

@[simp] theorem State.restart_v : s.restart.v = State.reset.v := rfl
@[simp] theorem State.restart_i : s.restart.i = State.reset.i := rfl
@[simp] theorem State.restart_pc : s.restart.pc = State.reset.pc := rfl
@[simp] theorem State.restart_sp : s.restart.sp = State.reset.sp := rfl
@[simp] theorem State.restart_stack : s.restart.stack = State.reset.stack := rfl
@[simp] theorem State.restart_dt : s.restart.dt = State.reset.dt := rfl
@[simp] theorem State.restart_st : s.restart.st = State.reset.st := rfl
@[simp] theorem State.restart_mem : s.restart.mem = State.reset.mem := rfl
@[simp] theorem State.restart_fb : s.restart.fb = State.reset.fb := rfl
@[simp] theorem State.restart_key : s.restart.key = State.reset.key := rfl
@[simp] theorem State.restart_q : s.restart.q = s.q := rfl
@[simp] theorem State.restart_err : s.restart.err = State.reset.err := rfl
@[simp] theorem State.restart_draws : s.restart.draws = s.draws := rfl

/-! A taken or untaken skip. -/

@[simp] theorem State.skipIf_pc (g : Bool) : (s.skipIf g).pc = if g then s.pc + 2 else s.pc := by
  cases g <;> rfl

@[simp] theorem State.skipIf_v (g : Bool) : (s.skipIf g).v = s.v := by cases g <;> rfl
@[simp] theorem State.skipIf_i (g : Bool) : (s.skipIf g).i = s.i := by cases g <;> rfl
@[simp] theorem State.skipIf_sp (g : Bool) : (s.skipIf g).sp = s.sp := by cases g <;> rfl
@[simp] theorem State.skipIf_stack (g : Bool) : (s.skipIf g).stack = s.stack := by cases g <;> rfl
@[simp] theorem State.skipIf_dt (g : Bool) : (s.skipIf g).dt = s.dt := by cases g <;> rfl
@[simp] theorem State.skipIf_st (g : Bool) : (s.skipIf g).st = s.st := by cases g <;> rfl
@[simp] theorem State.skipIf_mem (g : Bool) : (s.skipIf g).mem = s.mem := by cases g <;> rfl
@[simp] theorem State.skipIf_fb (g : Bool) : (s.skipIf g).fb = s.fb := by cases g <;> rfl
@[simp] theorem State.skipIf_key (g : Bool) : (s.skipIf g).key = s.key := by cases g <;> rfl
@[simp] theorem State.skipIf_q (g : Bool) : (s.skipIf g).q = s.q := by cases g <;> rfl
@[simp] theorem State.skipIf_err (g : Bool) : (s.skipIf g).err = s.err := by cases g <;> rfl
@[simp] theorem State.skipIf_draws (g : Bool) : (s.skipIf g).draws = s.draws := by cases g <;> rfl
@[simp] theorem State.skipIf_reg (g : Bool) (r : Reg) : (s.skipIf g).reg r = s.reg r := by cases g <;> rfl
@[simp] theorem State.skipIf_stackAt (g : Bool) (c : Reg) : (s.skipIf g).stackAt c = s.stackAt c := by cases g <;> rfl
@[simp] theorem State.skipIf_keyDown (g : Bool) (c : Reg) : (s.skipIf g).keyDown c = s.keyDown c := by cases g <;> rfl
@[simp] theorem State.skipIf_byteAt (g : Bool) (a : Nat) : (s.skipIf g).byteAt a = s.byteAt a := by cases g <;> rfl

/-! The registers and the cells after a write. -/

@[simp] theorem State.setV_reg (x r : Reg) (b : Byte) : (s.setV x b).reg r = if r = x then b else s.reg r := by
  simp only [State.reg, State.setV, Fin.getElem_fin, Vector.getElem_set, Fin.ext_iff, eq_comm]

@[simp] theorem State.setFlag_reg (r : Reg) (f : Bool) :
    (s.setFlag f).reg r = if r = vf then flagByte f else s.reg r := by
  simp only [State.setFlag, State.setV_reg]

@[simp] theorem State.setVs_reg (vs : Vector Byte 16) (r : Reg) : (s.setVs vs).reg r = vs[r] := rfl

@[simp] theorem State.setVWithFlag_reg (x r : Reg) (b : Byte) (f : Bool) :
    (s.setVWithFlag x b f).reg r = if r = vf then flagByte f else if r = x then b else s.reg r := by
  simp only [State.setVWithFlag, State.setFlag_reg, State.setV_reg]

@[simp] theorem State.setStack_stackAt (k c : Reg) (w : Word) :
    (s.setStack k w).stackAt c = if c = k then w else s.stackAt c := by
  simp only [State.stackAt, State.setStack, Fin.getElem_fin, Vector.getElem_set, Fin.ext_iff, eq_comm]

@[simp] theorem State.setKeyBit_keyDown (k c : Reg) (b : Bool) :
    (s.setKeyBit k b).keyDown c = if c = k then b else s.keyDown c := by
  simp only [State.keyDown, State.setKeyBit, Fin.getElem_fin, Vector.getElem_set, Fin.ext_iff, eq_comm]

@[simp] theorem State.setMem_byteAt (m : Memory) (a : Nat) : (s.setMem m).byteAt a = Memory.read m a := rfl

@[simp] theorem State.setVWithFlag_i (x : Reg) (b : Byte) (g : Bool) : (s.setVWithFlag x b g).i = s.i := rfl
@[simp] theorem State.setVWithFlag_pc (x : Reg) (b : Byte) (g : Bool) : (s.setVWithFlag x b g).pc = s.pc := rfl
@[simp] theorem State.setVWithFlag_sp (x : Reg) (b : Byte) (g : Bool) : (s.setVWithFlag x b g).sp = s.sp := rfl
@[simp] theorem State.setVWithFlag_stack (x : Reg) (b : Byte) (g : Bool) : (s.setVWithFlag x b g).stack = s.stack := rfl
@[simp] theorem State.setVWithFlag_dt (x : Reg) (b : Byte) (g : Bool) : (s.setVWithFlag x b g).dt = s.dt := rfl
@[simp] theorem State.setVWithFlag_st (x : Reg) (b : Byte) (g : Bool) : (s.setVWithFlag x b g).st = s.st := rfl
@[simp] theorem State.setVWithFlag_mem (x : Reg) (b : Byte) (g : Bool) : (s.setVWithFlag x b g).mem = s.mem := rfl
@[simp] theorem State.setVWithFlag_fb (x : Reg) (b : Byte) (g : Bool) : (s.setVWithFlag x b g).fb = s.fb := rfl
@[simp] theorem State.setVWithFlag_key (x : Reg) (b : Byte) (g : Bool) : (s.setVWithFlag x b g).key = s.key := rfl
@[simp] theorem State.setVWithFlag_q (x : Reg) (b : Byte) (g : Bool) : (s.setVWithFlag x b g).q = s.q := rfl
@[simp] theorem State.setVWithFlag_err (x : Reg) (b : Byte) (g : Bool) : (s.setVWithFlag x b g).err = s.err := rfl
@[simp] theorem State.setVWithFlag_draws (x : Reg) (b : Byte) (g : Bool) : (s.setVWithFlag x b g).draws = s.draws := rfl
@[simp] theorem State.setVWithFlag_stackAt (x : Reg) (b : Byte) (g : Bool) (c : Reg) :
    (s.setVWithFlag x b g).stackAt c = s.stackAt c := rfl
@[simp] theorem State.setVWithFlag_keyDown (x : Reg) (b : Byte) (g : Bool) (c : Reg) :
    (s.setVWithFlag x b g).keyDown c = s.keyDown c := rfl
@[simp] theorem State.setVWithFlag_byteAt (x : Reg) (b : Byte) (g : Bool) (a : Nat) :
    (s.setVWithFlag x b g).byteAt a = s.byteAt a := rfl

end Sys2Proof.Machine
end

