-- ==== Sys2Proof/Laws/Ops.lean ====
section
/-! SUPPORT. For each shared operation, once, everything it can do. -/

namespace Sys2Proof.Machine

/-- A range access either runs its continuation or latches MemoryOutOfBounds and does nothing else. -/
theorem State.withRange_cases (s : State) (n : Nat) (k : Out) :
    (inBounds s.i.toNat n = true ∧ s.withRange n k = k) ∨
      (inBounds s.i.toNat n = false ∧ s.withRange n k = .next (s.raise (.memoryOutOfBounds s.pc0 s.i))) := by
  unfold State.withRange
  cases inBounds s.i.toNat n <;> simp

/-- What a next state of a range access can be. -/
theorem State.withRange_next {s t u : State} {n : Nat} (h : s.withRange n (.next u) = .next t) :
    (inBounds s.i.toNat n = true ∧ t = u) ∨
      (inBounds s.i.toNat n = false ∧ t = s.raise (.memoryOutOfBounds s.pc0 s.i)) := by
  rcases s.withRange_cases n (.next u) with ⟨h1, h2⟩ | ⟨h1, h2⟩ <;> rw [h2] at h <;> cases h
  · exact .inl ⟨h1, rfl⟩
  · exact .inr ⟨h1, rfl⟩

/-- Raising an error latches it and changes nothing else. -/
theorem State.raise_latchesOnly (s : State) (e : Fault) : latchesOnly e s (s.raise e) := by
  refine ⟨rfl, fun p hp => ?_⟩
  cases p <;> first | (simp at hp; done) | (simp [Part.same])

/-- The fetch answers the big-endian word at `PC` when both bytes lie in memory. -/
theorem State.fetch_eq_some (s : State) (h : s.pc.toNat + 1 ≤ 0xFFF) :
    s.fetch = some (wordOfBytes (s.byteAt s.pc.toNat) (s.byteAt (s.pc.toNat + 1))) := if_pos h

/-- The fetch answers nothing otherwise. -/
theorem State.fetch_eq_none (s : State) (h : 0xFFF < s.pc.toNat + 1) : s.fetch = none := if_neg (by simpa using h)

theorem State.fetch_cases (s : State) :
    (s.pc.toNat + 1 ≤ 0xFFF ∧
        s.fetch = some (wordOfBytes (s.byteAt s.pc.toNat) (s.byteAt (s.pc.toNat + 1)))) ∨
      (0xFFF < s.pc.toNat + 1 ∧ s.fetch = none) := by
  by_cases h : s.pc.toNat + 1 ≤ 0xFFF
  · exact .inl ⟨h, s.fetch_eq_some h⟩
  · exact .inr ⟨by omega, s.fetch_eq_none (by omega)⟩

/-- The top cell, when there is one, is the cell below `SP`. -/
theorem State.topCell_eq_some {s : State} {k : Reg} : s.topCell = some k ↔ k.val + 1 = s.sp.toNat := by
  unfold State.topCell
  constructor
  · intro h
    split at h
    · rw [Option.some.injEq] at h
      subst h
      simp only; omega
    · cases h
  · intro h
    rw [dif_pos (by omega)]
    rw [Option.some.injEq, Fin.ext_iff]
    simp only; omega

/-- The free cell, when there is one, is the cell `SP` names. -/
theorem State.freeCell_eq_some {s : State} {k : Reg} : s.freeCell = some k ↔ k.val = s.sp.toNat := by
  unfold State.freeCell
  constructor
  · intro h
    split at h
    · rw [Option.some.injEq] at h
      subst h
      rfl
    · cases h
  · intro h
    rw [dif_pos (by omega)]
    rw [Option.some.injEq, Fin.ext_iff]
    exact h.symm

/-- The first key is down and no smaller key is. -/
theorem State.firstKey_eq_some {s : State} {k : Reg} :
    s.firstKey = some k ↔ s.keyDown k = true ∧ ∀ j : Reg, j < k → s.keyDown j = false := by
  unfold State.firstKey
  rw [List.find?_eq_some_iff_getElem]
  constructor
  · rintro ⟨hk, n, hn, he, hlt⟩
    refine ⟨hk, fun j hj => ?_⟩
    have : n = k.val := by rw [List.getElem_finRange, Fin.ext_iff] at he; simpa using he
    subst this
    simpa using hlt j.val hj
  · rintro ⟨hk, hlt⟩
    refine ⟨hk, k.val, by simp, by simp, fun j hj => ?_⟩
    have := hlt ⟨j, by omega⟩ (by simpa [Fin.lt_def] using hj)
    simpa using this

/-- There is no first key when every key is up. -/
theorem State.firstKey_eq_none {s : State} : s.firstKey = none ↔ ∀ k : Reg, s.keyDown k = false := by
  simp [State.firstKey]

@[simp] theorem Frame.pixel_blank (x y : Nat) : Frame.pixel Frame.blank x y = false := by
  unfold Frame.pixel Frame.blank
  split <;> simp

/-- A toggled pixel flips; every other pixel keeps its value. -/
theorem Frame.pixel_toggle (f : Frame) (x y a b : Nat) (hx : x < 64) (hy : y < 32) :
    Frame.pixel (Frame.toggle f x y) a b = if a = x ∧ b = y then !Frame.pixel f a b else Frame.pixel f a b := by
  unfold Frame.pixel Frame.toggle
  rw [dif_pos hy]
  by_cases hb : b < 32
  · simp only [hb, dif_pos, Vector.getElem_set]
    by_cases hyb : y = b
    · subst hyb
      by_cases hax : a = x
      · subst hax; simp [hx]
      · simp [BitVec.getLsbD_twoPow, hax, Ne.symm hax]
    · simp [hyb, Ne.symm hyb]
  · have : ¬(a = x ∧ b = y) := by omega
    simp only [hb, dif_neg, not_false_eq_true, if_neg this]

/-- The registers after a load of `n` bytes. -/
theorem loadRegs_getElem (m : Memory) (a n : Nat) (vs : Vector Byte 16) (r : Reg) :
    (loadRegs m a n vs)[r] = if r.val < n then Memory.read m (a + r.val) else vs[r] := by
  induction n with
  | zero => simp [loadRegs]
  | succ n ih =>
    simp only [Fin.getElem_fin] at ih
    simp only [loadRegs, Fin.getElem_fin, Vector.getElem_setIfInBounds, ih]
    by_cases h : n = r.val
    · subst h; simp
    · simp only [h, if_false]
      by_cases h2 : r.val < n
      · rw [if_pos h2, if_pos (by omega)]
      · rw [if_neg h2, if_neg (by omega)]

@[simp] theorem State.regsUpTo_length (s : State) (x : Reg) : (s.regsUpTo x).length = x.val + 1 := by
  simp [State.regsUpTo]

/-- The bytes a dump stores are V0 to VX in order. -/
theorem State.regsUpTo_getD (s : State) (x : Reg) (r : Reg) (h : r ≤ x) : (s.regsUpTo x).getD r.val 0 = s.reg r := by
  have h1 : r.val < x.val + 1 := Nat.lt_succ_of_le h
  simp [State.regsUpTo, State.reg, List.getD_eq_getElem?_getD, h1]

@[simp] theorem bcdDigits_length (b : Byte) : (bcdDigits b).length = 3 := rfl

end Sys2Proof.Machine
end

