-- ==== Sys2Proof/Laws/Exec.lean ====
section
/-! SUPPORT. What the meanings that branch can do, once each. -/

namespace Sys2Proof.Machine

/-- `RET` raises on an empty stack, pops the top cell, or is refused when `SP` is no count. -/
theorem execRet_cases (s : State) :
    (s.sp = 0 ∧ execRet s = .next (s.raise (.stackUnderflow s.pc0))) ∨
      (∃ k : Reg, k.val + 1 = s.sp.toNat ∧ execRet s = .next ((s.setSp (s.sp - 1)).setPc (s.stackAt k))) ∨
      (16 < s.sp.toNat ∧ execRet s = .refused .stackPointerOutOfRange) := by
  by_cases h0 : s.sp = 0
  · exact .inl ⟨h0, by simp only [execRet, if_pos h0]⟩
  · have hpos : s.sp.toNat ≠ 0 := fun h => h0 (BitVec.eq_of_toNat_eq h)
    cases hk : s.topCell with
    | some k => exact .inr (.inl ⟨k, State.topCell_eq_some.1 hk, by simp only [execRet, if_neg h0, hk]⟩)
    | none =>
      refine .inr (.inr ⟨?_, by simp only [execRet, if_neg h0, hk]⟩)
      by_contra hle
      have := State.topCell_eq_some.2 (show (⟨s.sp.toNat - 1, by omega⟩ : Reg).val + 1 = s.sp.toNat by simp only; omega)
      rw [hk] at this
      cases this

/-- `CALL` raises on a full stack, pushes to the free cell, or is refused when `SP` is no count. -/
theorem execCallAddr_cases (nnn : Addr12) (s : State) :
    (s.sp = 16 ∧ execCallAddr nnn s = .next (s.raise (.stackOverflow s.pc0))) ∨
      (∃ k : Reg, k.val = s.sp.toNat ∧
        execCallAddr nnn s = .next (((s.setStack k s.pc).setSp (s.sp + 1)).setPc (zextAddr nnn))) ∨
      (16 < s.sp.toNat ∧ execCallAddr nnn s = .refused .stackPointerOutOfRange) := by
  by_cases h0 : s.sp = 16
  · exact .inl ⟨h0, by simp only [execCallAddr, if_pos h0]⟩
  · have hne : s.sp.toNat ≠ 16 := fun h => h0 (BitVec.eq_of_toNat_eq h)
    cases hk : s.freeCell with
    | some k => exact .inr (.inl ⟨k, State.freeCell_eq_some.1 hk, by simp only [execCallAddr, if_neg h0, hk]⟩)
    | none =>
      refine .inr (.inr ⟨?_, by simp only [execCallAddr, if_neg h0, hk]⟩)
      by_contra hle
      have := State.freeCell_eq_some.2 (show (⟨s.sp.toNat, by omega⟩ : Reg).val = s.sp.toNat from rfl)
      rw [hk] at this
      cases this

/-- `LD Vx, K` stores the first key, or steps back to itself when every key is up. -/
theorem execLdVxK_cases (x : Reg) (s : State) :
    (∃ k : Reg, s.firstKey = some k ∧ execLdVxK x s = .next (s.setV x (BitVec.ofNat 8 k.val))) ∨
      ((∀ k : Reg, s.keyDown k = false) ∧ execLdVxK x s = .next (s.setPc s.pc0)) := by
  cases hk : s.firstKey with
  | some k => exact .inl ⟨k, rfl, by simp only [execLdVxK, hk]⟩
  | none => exact .inr ⟨State.firstKey_eq_none.1 hk, by simp only [execLdVxK, hk]⟩

end Sys2Proof.Machine
end

