-- ==== Sys2Proof/Laws/Step.lean ====
section
/-! SUPPORT. Everything a step can do, and how an instruction is placed for the next step. -/

namespace Sys2Proof.Machine

/-- The four things a step can do: answer a latched error, raise a fetch error, raise an illegal word, or run the
decoded instruction with `PC` advanced (46_host_operations.md R232). -/
theorem step_cases (s : State) :
    (∃ e, s.err = some e ∧ step s = .fault e) ∨
      (s.err = none ∧ 0xFFF < s.pc.toNat + 1 ∧ step s = .next (s.raise (.fetchOutOfBounds s.pc))) ∨
      (∃ w g, s.err = none ∧ s.pc.toNat + 1 ≤ 0xFFF ∧ s.fetch = some w ∧ decodeWord w = .error g ∧
        step s = .next (s.advance.raise (.illegalOpcode s.pc w))) ∨
      ∃ w i, s.err = none ∧ s.pc.toNat + 1 ≤ 0xFFF ∧ s.fetch = some w ∧ decodeWord w = .ok i ∧
        step s = exec i s.advance := by
  unfold step
  cases he : s.err with
  | some e => exact .inl ⟨e, rfl, rfl⟩
  | none =>
    rcases s.fetch_cases with ⟨hpc, hf⟩ | ⟨hpc, hf⟩
    · rw [hf]
      simp only
      cases hd : decodeWord (wordOfBytes (s.byteAt s.pc.toNat) (s.byteAt (s.pc.toNat + 1))) with
      | error g => exact .inr (.inr (.inl ⟨_, g, trivial, hpc, rfl, hd, rfl⟩))
      | ok i => exact .inr (.inr (.inr ⟨_, i, trivial, hpc, rfl, hd, rfl⟩))
    · rw [hf]
      exact .inr (.inl ⟨rfl, hpc, rfl⟩)

/-- A step whose word decodes runs the instruction. -/
theorem step_eq_exec {s : State} {w : Word} {i : Instr} (he : s.err = none) (hf : s.fetch = some w)
    (hd : decodeWord w = .ok i) : step s = exec i s.advance := by
  simp only [step, he, hf, hd]

end Sys2Proof.Machine
end

