-- ==== Sys2Proof/Laws/HostOps.lean ====
section
/-! SUPPORT. What the host's step answers, by what the step did. -/

namespace Sys2Proof.Machine

/-- A step that answers a next state leaves that state, with the status of the two states (46_host_operations.md R233). -/
theorem State.hostStep_of_next {s t : State} (h : Machine.step s = .next t) : s.hostStep = (t, stepStatus s t) := by
  simp only [State.hostStep, h]

/-- A step of a latched machine leaves the state and answers the error (60_exceptions.md R268). -/
theorem State.hostStep_of_err {s : State} {e : Fault} (h : s.err = some e) : s.hostStep = (s, .error e) := by
  simp only [State.hostStep, Machine.step, h]

/-- The status of a step that latched an error is that error. -/
theorem stepStatus_of_err {s t : State} {e : Fault} (h : t.err = some e) : stepStatus s t = .error e := by
  simp only [stepStatus, h]

/-- The status of a step that latched no error, by whether the machine was blocked on a key. -/
theorem stepStatus_of_none {s t : State} (h : t.err = none) :
    stepStatus s t = if s.blocked then .waitingForKey else .continued := by
  simp only [stepStatus, h]

end Sys2Proof.Machine
end

