-- ==== Sys2Proof/Laws/PerInstr.lean ====
section
/-! SUPPORT. Per instruction: its encoding carries the fixed bits of its row of spec/opcode_table.json. -/

namespace Sys2Proof.Laws.OpcodeRow

/-- The word of `i` matches the mask and pattern of its row (30_encoding.md R93). -/
def Statement (i : Instr) : Prop := encode i &&& (opcodeRow i).mask = (opcodeRow i).pattern

theorem formatA_mask (op : BitVec 4) (nnn : Addr12) : formatA op nnn &&& 0xF000 = op ++ 0#12 := by
  rw [formatA, show (0xF000 : Word) = 0xF#4 ++ 0#12 from rfl, BitVec.and_append]
  congr 1
  · exact BitVec.and_allOnes (x := op)
  · simp

theorem formatXB_mask (op : BitVec 4) (x : Reg) (nn : Byte) : formatXB op x nn &&& 0xF000 = op ++ 0#12 :=
  formatA_mask op _

theorem formatXB_maskNN (op : BitVec 4) (x : Reg) (nn : Byte) :
    formatXB op x nn &&& 0xF0FF = op ++ (0#4 ++ nn : BitVec 12) := by
  rw [formatXB, show (0xF0FF : Word) = 0xF#4 ++ (0#4 ++ 0xFF#8 : BitVec 12) from rfl, BitVec.and_append, BitVec.and_append]
  congr 1
  · exact BitVec.and_allOnes (x := op)
  · congr 1
    · simp
    · exact BitVec.and_allOnes (x := nn)

theorem formatXYN_mask (op : BitVec 4) (x y : Reg) (n : BitVec 4) : formatXYN op x y n &&& 0xF000 = op ++ 0#12 :=
  formatA_mask op _

theorem formatXYN_maskN (op : BitVec 4) (x y : Reg) (n : BitVec 4) :
    formatXYN op x y n &&& 0xF00F = op ++ (0#4 ++ (0#4 ++ n : BitVec 8) : BitVec 12) := by
  rw [formatXYN, show (0xF00F : Word) = 0xF#4 ++ (0#4 ++ (0#4 ++ 0xF#4 : BitVec 8) : BitVec 12) from rfl,
    BitVec.and_append, BitVec.and_append, BitVec.and_append]
  congr 1
  · exact BitVec.and_allOnes (x := op)
  · congr 1
    · simp
    · congr 1
      · simp
      · exact BitVec.and_allOnes (x := n)

theorem cls : Statement (.cls) := rfl
theorem ret : Statement (.ret) := rfl
theorem jpAddr (nnn : Addr12) : Statement (.jpAddr nnn) := formatA_mask _ _
theorem callAddr (nnn : Addr12) : Statement (.callAddr nnn) := formatA_mask _ _
theorem seVxByte (x : Reg) (nn : Byte) : Statement (.seVxByte x nn) := formatXB_mask _ _ _
theorem sneVxByte (x : Reg) (nn : Byte) : Statement (.sneVxByte x nn) := formatXB_mask _ _ _
theorem seVxVy (x y : Reg) : Statement (.seVxVy x y) := formatXYN_maskN _ _ _ _
theorem ldVxByte (x : Reg) (nn : Byte) : Statement (.ldVxByte x nn) := formatXB_mask _ _ _
theorem addVxByte (x : Reg) (nn : Byte) : Statement (.addVxByte x nn) := formatXB_mask _ _ _
theorem ldVxVy (x y : Reg) : Statement (.ldVxVy x y) := formatXYN_maskN _ _ _ _
theorem orVxVy (x y : Reg) : Statement (.orVxVy x y) := formatXYN_maskN _ _ _ _
theorem andVxVy (x y : Reg) : Statement (.andVxVy x y) := formatXYN_maskN _ _ _ _
theorem xorVxVy (x y : Reg) : Statement (.xorVxVy x y) := formatXYN_maskN _ _ _ _
theorem addVxVy (x y : Reg) : Statement (.addVxVy x y) := formatXYN_maskN _ _ _ _
theorem subVxVy (x y : Reg) : Statement (.subVxVy x y) := formatXYN_maskN _ _ _ _
theorem shrVxVy (x y : Reg) : Statement (.shrVxVy x y) := formatXYN_maskN _ _ _ _
theorem subnVxVy (x y : Reg) : Statement (.subnVxVy x y) := formatXYN_maskN _ _ _ _
theorem shlVxVy (x y : Reg) : Statement (.shlVxVy x y) := formatXYN_maskN _ _ _ _
theorem sneVxVy (x y : Reg) : Statement (.sneVxVy x y) := formatXYN_maskN _ _ _ _
theorem ldIAddr (nnn : Addr12) : Statement (.ldIAddr nnn) := formatA_mask _ _
theorem jpV0Addr (nnn : Addr12) : Statement (.jpV0Addr nnn) := formatA_mask _ _
theorem rndVxByte (x : Reg) (nn : Byte) : Statement (.rndVxByte x nn) := formatXB_mask _ _ _
theorem drwVxVyNibble (x y : Reg) (n : Nat) : Statement (.drwVxVyNibble x y n) := formatXYN_mask _ _ _ _
theorem skpVx (x : Reg) : Statement (.skpVx x) := formatXB_maskNN _ _ _
theorem sknpVx (x : Reg) : Statement (.sknpVx x) := formatXB_maskNN _ _ _
theorem ldVxDt (x : Reg) : Statement (.ldVxDt x) := formatXB_maskNN _ _ _
theorem ldVxK (x : Reg) : Statement (.ldVxK x) := formatXB_maskNN _ _ _
theorem ldDtVx (x : Reg) : Statement (.ldDtVx x) := formatXB_maskNN _ _ _
theorem ldStVx (x : Reg) : Statement (.ldStVx x) := formatXB_maskNN _ _ _
theorem addIVx (x : Reg) : Statement (.addIVx x) := formatXB_maskNN _ _ _
theorem ldFVx (x : Reg) : Statement (.ldFVx x) := formatXB_maskNN _ _ _
theorem ldBVx (x : Reg) : Statement (.ldBVx x) := formatXB_maskNN _ _ _
theorem ldMemVx (x : Reg) : Statement (.ldMemVx x) := formatXB_maskNN _ _ _
theorem ldVxMem (x : Reg) : Statement (.ldVxMem x) := formatXB_maskNN _ _ _

end Sys2Proof.Laws.OpcodeRow
end

