-- ==== Sys2Proof/Tests/Slice0.lean ====
section
/-! SUPPORT. Tests: every constructor's decoding, the well-formedness smoke test, small steps from the vectors of
95_test_vectors.md, and a witness for the hypotheses of each statement. -/

namespace Sys2Proof.Tests

open Sys2Proof.Machine

/-! Well-formedness: the row count of `DRW` must fit four bits (30_encoding.md R94). -/

theorem test_wellFormed_refuses_long_sprite : (Instr.drwVxVyNibble 0 0 16).wellFormed = false := by decide
theorem test_wellFormed_accepts_longest_sprite : (Instr.drwVxVyNibble 0 0 15).wellFormed = true := by decide

/-! Decoding and encoding, one word per row of 30_encoding.md R93, written out from it. -/

/-- `w` decodes to `i` and `i` encodes to `w`. -/
abbrev codes (w : Word) (i : Instr) : Prop := decodeWord w = .ok i ∧ encode i = w

theorem test_code_cls : codes 0x00E0 .cls := by decide
theorem test_code_ret : codes 0x00EE .ret := by decide
theorem test_code_jp : codes 0x1ABC (.jpAddr 0xABC) := by decide
theorem test_code_call : codes 0x2300 (.callAddr 0x300) := by decide
theorem test_code_se_byte : codes 0x3A05 (.seVxByte 10 0x05) := by decide
theorem test_code_sne_byte : codes 0x4A05 (.sneVxByte 10 0x05) := by decide
theorem test_code_se_reg : codes 0x5120 (.seVxVy 1 2) := by decide
theorem test_code_ld_byte : codes 0x6A2F (.ldVxByte 10 0x2F) := by decide
theorem test_code_add_byte : codes 0x71FF (.addVxByte 1 0xFF) := by decide
theorem test_code_ld_reg : codes 0x8120 (.ldVxVy 1 2) := by decide
theorem test_code_or : codes 0x8121 (.orVxVy 1 2) := by decide
theorem test_code_and : codes 0x8122 (.andVxVy 1 2) := by decide
theorem test_code_xor : codes 0x8123 (.xorVxVy 1 2) := by decide
theorem test_code_add : codes 0x81F4 (.addVxVy 1 15) := by decide
theorem test_code_sub : codes 0x8F15 (.subVxVy 15 1) := by decide
theorem test_code_shr : codes 0x8126 (.shrVxVy 1 2) := by decide
theorem test_code_subn : codes 0x8127 (.subnVxVy 1 2) := by decide
theorem test_code_shl : codes 0x812E (.shlVxVy 1 2) := by decide
theorem test_code_sne_reg : codes 0x9120 (.sneVxVy 1 2) := by decide
theorem test_code_ld_i : codes 0xA2F0 (.ldIAddr 0x2F0) := by decide
theorem test_code_jp_v0 : codes 0xB234 (.jpV0Addr 0x234) := by decide
theorem test_code_rnd : codes 0xC30F (.rndVxByte 3 0x0F) := by decide
theorem test_code_drw : codes 0xD01F (.drwVxVyNibble 0 1 15) := by decide
theorem test_code_skp : codes 0xE19E (.skpVx 1) := by decide
theorem test_code_sknp : codes 0xE1A1 (.sknpVx 1) := by decide
theorem test_code_ld_dt_read : codes 0xF407 (.ldVxDt 4) := by decide
theorem test_code_ld_k : codes 0xF30A (.ldVxK 3) := by decide
theorem test_code_ld_dt_write : codes 0xF415 (.ldDtVx 4) := by decide
theorem test_code_ld_st : codes 0xF418 (.ldStVx 4) := by decide
theorem test_code_add_i : codes 0xF21E (.addIVx 2) := by decide
theorem test_code_ld_f : codes 0xF329 (.ldFVx 3) := by decide
theorem test_code_ld_b : codes 0xF533 (.ldBVx 5) := by decide
theorem test_code_dump : codes 0xF255 (.ldMemVx 2) := by decide
theorem test_code_load : codes 0xF165 (.ldVxMem 1) := by decide

/-- Illegal words of 95_test_vectors.md 2.3, one per group of R97. -/
theorem test_illegal_by_name :
    decodeWord 0x00E1 = .error .op0 ∧ decodeWord 0x5121 = .error .op5 ∧ decodeWord 0x8128 = .error .op8 ∧
      decodeWord 0x9121 = .error .op9 ∧ decodeWord 0xE19F = .error .opE ∧ decodeWord 0xF130 = .error .opF := by decide

/-- One byte is no instruction (R90). -/
theorem test_truncated : decodeBytes [0x00] = .error .truncated := by decide

/-- The rest of the bytes is handed back (R90). -/
theorem test_decodeBytes_rest : decodeBytes [0x60, 0x07, 0xAA] = .ok (.ldVxByte 0 7, [0xAA]) := by decide

theorem test_table_word : decodeTableWord 16 0xD01F = some (.drwVxVyNibble 0 1 15) := by decide

/-! Single steps, from the vectors of 95_test_vectors.md (the vector's name is cited). -/

/-- The next state of one step from reset with `f` applied and the word `w` at 0x200. -/
def stepWord (w : Nat) (f : State → State) : Option State :=
  match step ((f State.reset).withFetchWord 16 w) with
  | .next t => some t
  | .fault _ => none
  | .refused _ => none

/-- What `g` reads from that next state. -/
def after {α : Type} (w : Nat) (f : State → State) (g : State → α) : Option α := (stepWord w f).map g

/-- A store of bytes into memory. -/
def poke (a : Nat) (bs : List Byte) (s : State) : State := s.setMem (Memory.writeBytes s.mem a bs)

/-- A2, A7. -/
theorem test_add : after 0x8124 (fun s => (s.setV 1 0xFF).setV 2 0xFF) (fun t => (t.reg 1, t.reg vf, t.pc)) =
    some (0xFE, 1, 0x202) := by decide
theorem test_add_into_vf : after 0x8F14 (fun s => (s.setV 1 0x20).setV 15 0xF0) (fun t => t.reg vf) = some 1 := by decide
/-- A12, A20. -/
theorem test_sub : after 0x8125 (fun s => (s.setV 1 0x10).setV 2 0x20) (fun t => (t.reg 1, t.reg vf)) =
    some (0xF0, 0) := by decide
theorem test_sub_vf_source : after 0x81F5 (fun s => (s.setV 1 5).setV 15 1) (fun t => (t.reg 1, t.reg vf)) =
    some (4, 1) := by decide
/-- A22, A24. -/
theorem test_subn : after 0x8127 (fun s => (s.setV 1 0x10).setV 2 0x20) (fun t => (t.reg 1, t.reg vf)) =
    some (0x10, 1) := by decide
theorem test_subn_equal : after 0x8127 (fun s => (s.setV 1 0x33).setV 2 0x33) (fun t => (t.reg 1, t.reg vf)) =
    some (0, 1) := by decide
/-- A28, A39. -/
theorem test_shr : after 0x8126 (fun s => (s.setV 1 4).setV 2 7) (fun t => (t.reg 1, t.reg vf, t.reg 2)) =
    some (3, 1, 7) := by decide
theorem test_shr_in_place : after 0x8126 (fun s => ((s.setV 1 4).setV 2 7).setQ ⟨true, false, false⟩)
    (fun t => (t.reg 1, t.reg vf, t.reg 2)) = some (2, 0, 7) := by decide
/-- A33, A43. -/
theorem test_shl : after 0x812E (fun s => (s.setV 1 1).setV 2 0x80) (fun t => (t.reg 1, t.reg vf)) = some (0, 1) := by
  decide
theorem test_shl_in_place : after 0x812E (fun s => (s.setV 1 0xFF).setQ ⟨true, false, false⟩)
    (fun t => (t.reg 1, t.reg vf)) = some (0xFE, 1) := by decide
/-- A50, A51, A52: VF is left alone. -/
theorem test_or : after 0x8121 (fun s => ((s.setV 1 0xF0).setV 2 0x0F).setV 15 0x5A) (fun t => (t.reg 1, t.reg vf)) =
    some (0xFF, 0x5A) := by decide
theorem test_and : after 0x8122 (fun s => ((s.setV 1 0xF3).setV 2 0x3F).setV 15 0x5A) (fun t => (t.reg 1, t.reg vf)) =
    some (0x33, 0x5A) := by decide
theorem test_xor : after 0x8123 (fun s => ((s.setV 1 0xFF).setV 2 0x0F).setV 15 0x5A) (fun t => (t.reg 1, t.reg vf)) =
    some (0xF0, 0x5A) := by decide
/-- A54, A57, A59. -/
theorem test_ld_reg : after 0x8120 (fun s => s.setV 2 0x55) (fun t => t.reg 1) = some 0x55 := by decide
theorem test_ld_byte : after 0x6A2F id (fun t => t.reg 10) = some 0x2F := by decide
theorem test_add_byte : after 0x7105 (fun s => (s.setV 1 0xFE).setV 15 0x5A) (fun t => (t.reg 1, t.reg vf)) =
    some (3, 0x5A) := by decide
/-- A65: a zero mask gives 0 whatever the draw; one draw is taken. -/
theorem test_rnd_zero_mask : (after 0xC300 (fun s => s.setV 3 0x55) (fun t => (t.reg 3, t.draws))) = some (0, 1) := by
  have h : after 0xC300 (fun s => s.setV 3 0x55) (fun t => (t.reg 3, t.draws)) =
      some (Config.randomByte 0 &&& 0, 1) := rfl
  rw [h]; simp
/-- B1, B25, B26. -/
theorem test_jp : after 0x1ABC id (fun t => t.pc) = some 0xABC := by decide
theorem test_jp_v0_quirk : after 0xB234 (fun s => ((s.setV 0 0x10).setV 2 4).setQ ⟨false, false, true⟩) (fun t => t.pc) =
    some 0x238 := by decide
theorem test_jp_v0_unmasked : after 0xBFFF (fun s => s.setV 0 0xFF) (fun t => t.pc) = some 0x10FE := by decide
/-- B6, B7 at 0x200: the sixteenth call succeeds, the seventeenth raises. -/
theorem test_call_last : after 0x2300 (fun s => s.setSp 15) (fun t => (t.pc, t.sp, t.stackAt 15)) =
    some (0x300, 16, 0x202) := by decide
theorem test_call_overflow : after 0x2300 (fun s => s.setSp 16) (fun t => (t.err, t.pc, t.sp)) =
    some (some (.stackOverflow 0x200), 0x202, 16) := by decide
/-- B8, B9. -/
theorem test_ret : after 0x00EE (fun s => (s.setSp 1).setStack 0 0x204) (fun t => (t.pc, t.sp, t.stackAt 0)) =
    some (0x204, 0, 0x204) := by decide
theorem test_ret_underflow : after 0x00EE id (fun t => (t.err, t.pc)) = some (some (.stackUnderflow 0x200), 0x202) := by
  decide
/-- B11 to B18. -/
theorem test_se_byte : after 0x3A05 (fun s => s.setV 10 5) (fun t => t.pc) = some 0x204 := by decide
theorem test_sne_byte : after 0x4A05 (fun s => s.setV 10 5) (fun t => t.pc) = some 0x202 := by decide
theorem test_se_reg : after 0x5120 (fun s => (s.setV 1 0x7F).setV 2 0x7F) (fun t => t.pc) = some 0x204 := by decide
theorem test_sne_reg : after 0x9120 (fun s => (s.setV 1 1).setV 2 2) (fun t => t.pc) = some 0x204 := by decide
/-- M1, M5, M8, M12, M15, M18. -/
theorem test_ld_i : after 0xA2F0 id (fun t => t.i) = some 0x2F0 := by decide
theorem test_add_i_wraps : after 0xF21E (fun s => (s.setI 0xFFFF).setV 2 1) (fun t => (t.i, t.reg vf)) = some (0, 1) := by
  decide
theorem test_add_i_vf : after 0xFF1E (fun s => (s.setI 0x0FFF).setV 15 1) (fun t => (t.i, t.reg vf)) =
    some (0x1000, 1) := by decide
theorem test_ld_f : after 0xF329 (fun s => s.setV 3 0x1A) (fun t => t.i) = some 0x082 := by decide
/-- M20, M27. -/
theorem test_ld_b : after 0xF533 (fun s => (s.setV 5 0x9C).setI 0x300) (fun t => (Memory.readBytes t.mem 0x300 3, t.i)) =
    some ([1, 5, 6], 0x300) := by decide
theorem test_ld_b_out : after 0xF533 (fun s => (s.setV 5 0x7B).setI 0xFFE)
    (fun t => (t.err, Memory.readBytes t.mem 0xFFE 2)) = some (some (.memoryOutOfBounds 0x200 0xFFE), [0, 0]) := by decide
/-- M33, M37. -/
theorem test_dump : after 0xF255 (fun s => ((((s.setV 0 1).setV 1 2).setV 2 3).setI 0x400).setQ ⟨false, true, false⟩)
    (fun t => (Memory.readBytes t.mem 0x400 4, t.i)) = some ([1, 2, 3, 0], 0x403) := by decide
theorem test_dump_out : after 0xF155 (fun s => s.setI 0xFFF) (fun t => t.err) =
    some (some (.memoryOutOfBounds 0x200 0xFFF)) := by decide
/-- M30, M36. -/
theorem test_load : after 0xF165 (fun s => poke 0x400 [0xAA, 0xBB, 0xCC] ((s.setI 0x400).setV 2 0x77))
    (fun t => (t.reg 0, t.reg 1, t.reg 2, t.i)) = some (0xAA, 0xBB, 0x77, 0x400) := by decide
theorem test_load_last : after 0xF065 (fun s => poke 0xFFF [0xC3] ((s.setI 0xFFF).setQ ⟨false, true, false⟩))
    (fun t => (t.reg 0, t.i)) = some (0xC3, 0x1000) := by decide
/-- G6 (columns wrap within the row), G15 (VF as coordinate, collision), G17. -/
theorem test_drw_wraps : after 0xD011 (fun s => poke 0x300 [0xFF] (((s.setV 0 0xFF).setV 1 0xFF).setI 0x300))
    (fun t => (Frame.pixel t.fb 63 31, Frame.pixel t.fb 6 31, Frame.pixel t.fb 7 31, t.reg vf)) =
    some (true, true, false, 0) := by decide
theorem test_drw_collides : after 0xDFF1
    (fun s => poke 0x300 [0x80] (((s.setV 15 3).setI 0x300).setFb (Frame.toggle s.fb 3 3)))
    (fun t => (Frame.pixel t.fb 3 3, t.reg vf)) = some (false, 1) := by decide
theorem test_cls : after 0x00E0 (fun s => s.setFb (Frame.toggle s.fb 63 31)) (fun t => Frame.pixel t.fb 63 31) =
    some false := by decide
/-- K6, K7, K9, K11. -/
theorem test_skp : after 0xE19E (fun s => (s.setV 1 0x1A).setKeyBit 10 true) (fun t => t.pc) = some 0x204 := by decide
theorem test_sknp : after 0xE1A1 (fun s => (s.setV 1 0xF5).setKeyBit 5 true) (fun t => t.pc) = some 0x202 := by decide
theorem test_ld_k_blocked : after 0xF30A (fun s => s.setV 3 0x55) (fun t => (t.pc, t.reg 3)) = some (0x200, 0x55) := by
  decide
theorem test_ld_k_smallest : after 0xF30A (fun s => ((s.setKeyBit 15 true).setKeyBit 2 true).setKeyBit 9 true)
    (fun t => (t.pc, t.reg 3)) = some (0x202, 2) := by decide
/-- T4, T6, and R215's example. -/
theorem test_ld_dt_read : after 0xF407 (fun s => s.setDt 0x2A) (fun t => t.reg 4) = some 0x2A := by decide
theorem test_ld_dt_write : after 0xFF15 (fun s => s.setV 15 0x80) (fun t => (t.dt, t.reg vf)) = some (0x80, 0x80) := by
  decide
theorem test_ld_st : after 0xF418 (fun s => s.setV 4 5) (fun t => t.st) = some 5 := by decide

/-! The step around the instruction, and the host operations. -/

/-- F1: a fetch at 0xFFF raises with `PC` kept. -/
theorem test_fetch_out : (match step (State.reset.setPc 0xFFF) with
    | .next t => some (t.err, t.pc) | .fault _ => none | .refused _ => none) =
    some (some (.fetchOutOfBounds 0xFFF), 0xFFF) := by decide
/-- X1: the zero word. -/
theorem test_illegal : after 0x0000 id (fun t => (t.err, t.pc)) = some (some (.illegalOpcode 0x200 0), 0x202) := by decide
/-- H8: a latched error. -/
theorem test_latched : (State.reset.setErr (some (.stackOverflow 0x200))).hostStep.2 = .error (.stackOverflow 0x200) := by
  decide
/-- S5: five ticks, and a sixth. -/
theorem test_ticks : (hostRun (List.replicate 5 .tickTimers) (State.reset.setDt 5)).dt = 0 ∧
    (hostRun (List.replicate 6 .tickTimers) (State.reset.setDt 5)).dt = 0 := by decide
/-- H2. -/
theorem test_load_program : Memory.readBytes (hostOp (.loadProgram [0x12, 0x00]) State.reset).1.mem 0x1FF 3 =
    [0, 0x12, 0] := by decide
/-- H5. -/
theorem test_set_key : (hostRun [.setKey 15 true, .setKey 15 true, .setKey 0 true, .setKey 15 false] State.reset).key =
    State.reset.key.set 0 true := by decide
/-- H6. -/
theorem test_sound : (State.reset.setSt 1).soundTimerActive = true ∧
    (State.reset.setSt 1).tickTimers.soundTimerActive = false := by decide
/-- H1. -/
theorem test_reset_keeps_quirks : ((State.reset.setQ ⟨true, false, true⟩).raise (.illegalOpcode 0x200 0)).restart =
    State.reset.setQ ⟨true, false, true⟩ := by decide
/-- R261's codes. -/
theorem test_error_code : errorCode (some (.memoryOutOfBounds 0 0)) = 5 ∧ errorCode none = 0 := by decide
/-- Writing the reset contents removes the cell. -/
theorem test_memory_canonical : Memory.write (Memory.write [] 0x050 0x12) 0x050 0xF0 = [] := by decide

/-! Witnesses: for each statement with hypotheses, a state and operands that meet all of them. -/

/-- The reset state with the word `w` at 0x200. -/
abbrev placed (w : Nat) : State := State.reset.withFetchWord 16 w

theorem witness_EncodedInstructionDecodesToItself : (Instr.drwVxVyNibble 3 15 15).wellFormed = true := by decide
theorem witness_DecodedWordEncodesToItself : decodeWord 0xFF65 = .ok (.ldVxMem 15) := by decide
theorem witness_AtMostOneRowMatches : ∃ r, r ∈ opcodeTable ∧ rowMatches r 0x812E = true := by
  exact ⟨opcodeRow (.shlVxVy 0 0), by decide, by decide⟩
theorem witness_DecoderFollowsTheOpcodeMap : decodeWord 0x5120 = .ok (.seVxVy 1 2) ∧
    opcodeRow (.seVxVy 0 0) ∈ opcodeTable ∧ rowMatches (opcodeRow (.seVxVy 0 0)) 0x5120 = true := by decide
/-- At 0x200 and, F4, at the last place an instruction fits, 0xFFE. -/
theorem witness_StepRunsTheDecodedInstruction :
    (placed 0x00E0).err = none ∧ (placed 0x00E0).pc.toNat ≤ 0xFFE ∧
      decodeBytes [(placed 0x00E0).byteAt 0x200, (placed 0x00E0).byteAt 0x201] = .ok (.cls, []) ∧
      ((State.reset.setPc 0xFFE).withFetchWord 16 0x6007).pc.toNat = 0xFFE ∧
      decodeBytes [((State.reset.setPc 0xFFE).withFetchWord 16 0x6007).byteAt 0xFFE,
        ((State.reset.setPc 0xFFE).withFetchWord 16 0x6007).byteAt 0xFFF] = .ok (.ldVxByte 0 7, []) := by decide
/-- Each clause at its boundary. -/
theorem witness_FetchIsBoundedAndBigEndian : (State.reset.setPc 0xFFF).err = none ∧
    0xFFF ≤ (State.reset.setPc 0xFFF).pc.toNat ∧ (State.reset.setPc 0xFFE).pc.toNat ≤ 0xFFE := by decide
theorem witness_IllegalWordRaises : State.reset.err = none ∧ State.reset.fetch = some 0 ∧
    decodeWord 0 = .error .op0 := by decide
theorem witness_ErrorLatchIsSticky : (State.reset.raise (.fetchOutOfBounds 0xFFF)).err = some (.fetchOutOfBounds 0xFFF) ∧
    HostOp.tickTimers ≠ .reset := by decide
theorem witness_RaisedErrorsArePrecise : ∃ t, State.reset.err = none ∧ exec .ret State.reset = .next t ∧ t.err ≠ none :=
  ⟨_, rfl, rfl, by decide⟩
/-- Each of the six instructions raises at its boundary. -/
theorem witness_OnlyTheListedConditionsRaise :
    State.reset.err = none ∧
      exec .ret State.reset = .next (State.reset.raise (.stackUnderflow 0x1FE)) ∧
      exec (.callAddr 0) (State.reset.setSp 16) = .next ((State.reset.setSp 16).raise (.stackOverflow 0x1FE)) ∧
      exec (.drwVxVyNibble 0 1 2) (State.reset.setI 0xFFF) =
        .next ((State.reset.setI 0xFFF).raise (.memoryOutOfBounds 0x1FE 0xFFF)) ∧
      exec (.ldBVx 0) (State.reset.setI 0xFFE) =
        .next ((State.reset.setI 0xFFE).raise (.memoryOutOfBounds 0x1FE 0xFFE)) ∧
      exec (.ldMemVx 1) (State.reset.setI 0xFFF) =
        .next ((State.reset.setI 0xFFF).raise (.memoryOutOfBounds 0x1FE 0xFFF)) ∧
      exec (.ldVxMem 1) (State.reset.setI 0xFFF) =
        .next ((State.reset.setI 0xFFF).raise (.memoryOutOfBounds 0x1FE 0xFFF)) :=
  ⟨rfl, rfl, rfl, rfl, rfl, rfl, rfl⟩
theorem witness_SafeStepIsNeverRefused : State.reset.Inv ∧ (State.reset.raise (.stackOverflow 0x200)).Inv ∧
    step (State.reset.raise (.stackOverflow 0x200)) = .fault (.stackOverflow 0x200) :=
  ⟨by decide, by decide, rfl⟩
/-- Empty, one entry, full. -/
theorem witness_ReturnPopsTheStack : State.reset.sp = 0 ∧ (State.reset.setSp 1).sp.toNat = (0 : Reg).val + 1 ∧
    (State.reset.setSp 16).sp.toNat = (15 : Reg).val + 1 := by decide
/-- Full, empty, one place left. -/
theorem witness_CallPushesTheReturnAddress : (State.reset.setSp 16).sp = 16 ∧ State.reset.sp.toNat = (0 : Reg).val ∧
    (State.reset.setSp 15).sp.toNat = (15 : Reg).val := by decide
theorem witness_JumpWithOffsetAddsTheRegister : (15 : Reg).val = (0xFFF : Addr12).toNat / 256 ∧
    (0 : Reg).val = (0x0FF : Addr12).toNat / 256 := by decide
theorem witness_ReturnUndoesCall : ∃ t, (State.reset.setSp 15).sp.toNat < 16 ∧
    exec (.callAddr 0x300) (State.reset.setSp 15) = .next t ∧ t.sp = t.sp ∧ ∀ k : Reg, t.stackAt k = t.stackAt k :=
  ⟨_, by decide, rfl, rfl, fun _ => rfl⟩
theorem witness_ParkedJumpChangesNothing : (placed 0x1200).err = none ∧
    (0x200 : Addr12).toNat = (placed 0x1200).pc.toNat ∧ (placed 0x1200).fetch = some (0x1#4 ++ (0x200 : Addr12)) := by
  decide
theorem witness_ShiftRightHalvesTheOperand : ((State.reset.setV 2 7).reg 2 =
    if (State.reset.setV 2 7).q.shift then (State.reset.setV 2 7).reg 1 else (State.reset.setV 2 7).reg 2) := by decide
theorem witness_ShiftLeftDoublesTheOperand : ((State.reset.setQ ⟨true, false, false⟩).reg 1 =
    if (State.reset.setQ ⟨true, false, false⟩).q.shift then (State.reset.setQ ⟨true, false, false⟩).reg 1
    else (State.reset.setQ ⟨true, false, false⟩).reg 2) := by decide
theorem witness_ShiftInPlaceIgnoresY : (State.reset.setQ ⟨true, false, false⟩).q.shift = true := by decide
theorem witness_FlagWritersLeaveZeroOrOne : ∃ t, writesFlag (.drwVxVyNibble 0 1 5) = true ∧ State.reset.err = none ∧
    exec (.drwVxVyNibble 0 1 5) State.reset = .next t ∧ t.err = none :=
  ⟨_, rfl, rfl, rfl, rfl⟩
/-- The last address in range and the first out of it. -/
theorem witness_BcdStoresThreeDigits : Memory.wf (State.reset.setI 0xFFD).mem ∧
    (State.reset.setI 0xFFD).i.toNat + 2 ≤ 0xFFF ∧ 0xFFF < (State.reset.setI 0xFFE).i.toNat + 2 := by decide
theorem witness_RegisterDumpStoresUpToVx : Memory.wf (State.reset.setI 0xFF0).mem ∧
    (State.reset.setI 0xFF0).i.toNat + (15 : Reg).val ≤ 0xFFF ∧
    0xFFF < (State.reset.setI 0xFF1).i.toNat + (15 : Reg).val := by decide
theorem witness_RegisterLoadReadsUpToVx : (State.reset.setI 0xFFF).i.toNat + (0 : Reg).val ≤ 0xFFF ∧
    0xFFF < (State.reset.setI 0xFFF).i.toNat + (1 : Reg).val := by decide
theorem witness_RegisterLoadUndoesDump : ∃ t, Memory.wf (State.reset.setI 0x400).mem ∧
    (State.reset.setI 0x400).i.toNat + (2 : Reg).val ≤ 0xFFF ∧
    exec (.ldMemVx 2) (State.reset.setI 0x400) = .next t ∧ t.i = (State.reset.setI 0x400).i ∧
    ∀ a : Nat, t.byteAt a = t.byteAt a :=
  ⟨_, by decide, by decide, rfl, rfl, fun _ => rfl⟩
theorem witness_StoreIsSeenByTheNextFetch : ∃ t, Memory.wf (State.reset.setI 0x200).mem ∧ 1 ≤ (1 : Reg).val ∧
    (State.reset.setI 0x200).i = (State.reset.setI 0x200).pc ∧
    (State.reset.setI 0x200).i.toNat + (1 : Reg).val ≤ 0xFFF ∧
    exec (.ldMemVx 1) (State.reset.setI 0x200) = .next t :=
  ⟨_, by decide, by decide, by decide, by decide, rfl⟩
/-- G9, G12, G13. -/
theorem witness_DrawFlipsThePixelsUnderTheSprite : (15 : Nat) ≤ 15 ∧
    (State.reset.setI 0xFF1).i.toNat + 15 - 1 ≤ 0xFFF ∧ 0xFFF < (State.reset.setI 0xFF2).i.toNat + 15 - 1 := by decide
theorem witness_DrawingTwiceRestoresTheDisplay : ∃ t, (State.reset.setI 0x050).i.toNat + 5 - 1 ≤ 0xFFF ∧
    exec (.drwVxVyNibble 0 1 5) (State.reset.setI 0x050) = .next t ∧ t.i = (State.reset.setI 0x050).i ∧
    (∀ a : Nat, t.byteAt a = (State.reset.setI 0x050).byteAt a) ∧ t.reg 2 = (State.reset.setI 0x050).reg 0 ∧
    t.reg 3 = (State.reset.setI 0x050).reg 1 :=
  ⟨_, by decide, rfl, rfl, fun _ => rfl, rfl, rfl⟩
theorem witness_KeySkipsTestTheLowNibble : (10 : Reg).val = ((State.reset.setV 1 0x1A).reg 1).toNat % 16 := by decide
/-- No key, and two keys with the smaller the one taken. -/
theorem witness_KeyWaitTakesTheSmallestKey : (∀ k : Reg, State.reset.keyDown k = false) ∧
    ((State.reset.setKeyBit 9 true).setKeyBit 2 true).keyDown 2 = true ∧
    ∀ j : Reg, j < 2 → ((State.reset.setKeyBit 9 true).setKeyBit 2 true).keyDown j = false := by decide
theorem witness_WaitingStepChangesNothing : (placed 0xF30A).hostStep.2 = .waitingForKey := by decide
theorem witness_InstructionsWriteOnlyTheirSet : ∃ t, exec (.ldBVx 5) (State.reset.setI 0x300) = .next t := ⟨_, rfl⟩
theorem witness_OtherRegistersAreUnchanged : ∃ t, exec (.addVxVy 1 2) State.reset = .next t ∧
    mayWriteReg (.addVxVy 1 2) 2 = false := ⟨_, rfl, rfl⟩
theorem witness_OtherBytesAreUnchanged : ∃ t, exec (.ldBVx 5) (State.reset.setI 0x300) = .next t ∧
    (State.reset.setI 0x300).i.toNat + storedBytes (.ldBVx 5) ≤ 0x303 ∧ 0x2FF < (State.reset.setI 0x300).i.toNat :=
  ⟨_, rfl, by decide, by decide⟩
theorem witness_OnlyRandomReadsTheSource : (∀ (x : Reg) (nn : Byte), Instr.cls ≠ .rndVxByte x nn) ∧
    ∃ t, exec .cls State.reset = .next t := ⟨by simp, _, rfl⟩
theorem witness_StepKeepsTheInvariant : ∃ t, (placed 0x2300).Inv ∧ step (placed 0x2300) = .next t :=
  ⟨_, by decide, rfl⟩
theorem witness_EveryHostRunKeepsTheInvariant : State.reset.Inv := by decide
/-- The largest image and one byte more. -/
theorem witness_LoadProgramCopiesTheImage : Memory.wf State.reset.mem ∧
    (List.replicate 3584 (0xAA : Byte)).length ≤ 3584 ∧ 3584 < (List.replicate 3585 (0xAA : Byte)).length := by
  refine ⟨by decide, ?_, ?_⟩
  · rw [List.length_replicate]
  · rw [List.length_replicate]; decide
/-- One state for each clause: a step that raises, a blocked one, one that goes on at a key-wait with a key down. -/
theorem witness_HostStepAnswersWhatTheStepDid :
    (∃ t, step ((placed 0x2300).setSp 16) = .next t ∧ t.err = some (.stackOverflow 0x200)) ∧
      (∃ t, step (placed 0xF30A) = .next t ∧ t.err = none ∧ (placed 0xF30A).fetch = some (formatXB 0xF 3 0x0A) ∧
        ∀ k : Reg, (placed 0xF30A).keyDown k = false) ∧
      ∃ t, step ((placed 0xF30A).setKeyBit 7 true) = .next t ∧ t.err = none ∧
        ((placed 0xF30A).setKeyBit 7 true).keyDown 7 = true :=
  ⟨⟨_, rfl, rfl⟩, ⟨_, rfl, rfl, by decide, by decide⟩, ⟨_, rfl, rfl, by decide⟩⟩
/-- R233: the host's step answers the error it latched, WaitingForKey, or Continue. -/
theorem test_host_step_results :
    ((placed 0x2300).setSp 16).hostStep.2 = .error (.stackOverflow 0x200) ∧
      ((placed 0xF30A).setKeyBit 7 true).hostStep.2 = .continued ∧
      ((placed 0xF30A).setKeyBit 7 true).hostStep.1.reg 3 = 7 := by decide

end Sys2Proof.Tests
end

/-! Control flow (40_control_flow.md): the jumps and the register skips write `PC` and nothing else. -/

namespace Sys2Proof

/-! What the words of the jumps and the register skips decode to (30_encoding.md R93). -/

section decode

variable (x y : Reg) (nn : Byte) (nnn : Addr12)

@[simp] theorem decodeWord_jpAddr : decodeWord (formatA 0x1 nnn) = .ok (.jpAddr nnn) := by
  simp [decodeWord]

@[simp] theorem decodeWord_jpV0Addr : decodeWord (formatA 0xB nnn) = .ok (.jpV0Addr nnn) := by
  simp [decodeWord]

@[simp] theorem decodeWord_seVxByte : decodeWord (formatXB 0x3 x nn) = .ok (.seVxByte x nn) := by
  simp [decodeWord]

@[simp] theorem decodeWord_sneVxByte : decodeWord (formatXB 0x4 x nn) = .ok (.sneVxByte x nn) := by
  simp [decodeWord]

@[simp] theorem decodeWord_seVxVy : decodeWord (formatXYN 0x5 x y 0x0) = .ok (.seVxVy x y) := by
  simp [decodeWord]

@[simp] theorem decodeWord_sneVxVy : decodeWord (formatXYN 0x9 x y 0x0) = .ok (.sneVxVy x y) := by
  simp [decodeWord]

end decode

end Sys2Proof

namespace Sys2Proof.Machine

/-! The operands of a jump as numbers. -/

@[simp] theorem zextAddr_toNat (nnn : Addr12) : (zextAddr nnn).toNat = nnn.toNat :=
  BitVec.toNat_setWidth_of_le (by decide)

@[simp] theorem zextByte_toNat (b : Byte) : (zextByte b).toNat = b.toNat :=
  BitVec.toNat_setWidth_of_le (by decide)

/-- The largest target is 0x10FE, so `PC` holds the sum whole (10_state.md R26). -/
theorem zextAddr_add_zextByte_toNat (nnn : Addr12) (b : Byte) :
    (zextAddr nnn + zextByte b).toNat = nnn.toNat + b.toNat := by
  rw [BitVec.toNat_add, zextAddr_toNat, zextByte_toNat]
  omega

theorem topNibble_val (nnn : Addr12) : (topNibble nnn).val = nnn.toNat / 256 := by
  simp [topNibble, BitVec.extractLsb'_toNat, Nat.shiftRight_eq_div_pow]
  omega

/-- The offset by the number of the register that the top nibble of `NNN` names (40_control_flow.md R128). -/
theorem State.jumpOffset_eq (s : State) {nnn : Addr12} {x : Reg} (hx : x.val = nnn.toNat / 256) :
    s.jumpOffset nnn = if s.q.jump then s.reg x else s.reg 0 := by
  have htop : topNibble nnn = x := Fin.ext ((topNibble_val nnn).trans hx.symm)
  rw [State.jumpOffset, htop]

/-! Writing `PC`, the one effect of all six instructions. -/

theorem State.setPc_unchangedExcept (s : State) (w : Word) : unchangedExcept [.pc] s (s.setPc w) := by
  intro p hp
  cases p
  case pc => simp at hp
  all_goals simp [Part.same]

/-- A skip is a write of `PC`, of its own value when the condition fails. -/
theorem State.skipIf_eq_setPc (s : State) (c : Bool) :
    s.skipIf c = s.setPc (if c then s.pc + 2 else s.pc) := by
  cases c <;> rfl

theorem State.skipIf_unchangedExcept (s : State) (c : Bool) : unchangedExcept [.pc] s (s.skipIf c) := by
  rw [s.skipIf_eq_setPc]
  exact s.setPc_unchangedExcept _

/-- An instruction whose body is a skip completes, with 2 added to `PC` exactly when the condition holds
(40_control_flow.md R127). -/
theorem completes_of_exec_skipIf {i : Instr} {s : State} {c : Bool} (h : exec i s = .next (s.skipIf c)) :
    completes i s fun t => t.pc = (if c then s.pc + 2 else s.pc) ∧ unchangedExcept [.pc] s t :=
  ⟨s.skipIf c, h, s.skipIf_pc c, s.skipIf_unchangedExcept c⟩

/-- Settles O16: the body writes `NNN`, zero-extended, to `PC`. -/
theorem jumpGoesToTheAddress : Obligations.JumpGoesToTheAddress := by
  unfold Obligations.JumpGoesToTheAddress
  intro nnn s
  exact ⟨decodeWord_jpAddr nnn, _, rfl, zextAddr_toNat nnn, s.setPc_unchangedExcept _⟩

/-- Settles O17: the sum fits 16 bits, and the register added is the one `Q.jump` selects. -/
theorem jumpWithOffsetAddsTheRegister : Obligations.JumpWithOffsetAddsTheRegister := by
  unfold Obligations.JumpWithOffsetAddsTheRegister
  intro nnn x s hx
  refine ⟨decodeWord_jpV0Addr nnn, _, rfl, ?_, s.setPc_unchangedExcept _⟩
  rw [State.setPc_pc, zextAddr_add_zextByte_toNat, s.jumpOffset_eq hx]

/-- Settles O18: each skip is `skipIf` of its comparison. -/
theorem skipsCompareRegisters : Obligations.SkipsCompareRegisters := by
  unfold Obligations.SkipsCompareRegisters
  intro x y nn s
  refine ⟨⟨decodeWord_seVxByte x nn, ?_⟩, ⟨decodeWord_sneVxByte x nn, ?_⟩, ⟨decodeWord_seVxVy x y, ?_⟩,
    ⟨decodeWord_sneVxVy x y, ?_⟩⟩
  · simpa using completes_of_exec_skipIf (i := .seVxByte x nn) (s := s) rfl
  · simpa using completes_of_exec_skipIf (i := .sneVxByte x nn) (s := s) rfl
  · simpa using completes_of_exec_skipIf (i := .seVxVy x y) (s := s) rfl
  · simpa using completes_of_exec_skipIf (i := .sneVxVy x y) (s := s) rfl

end Sys2Proof.Machine

/-! Registers and ALU (41_alu.md): each instruction writes its destination register, the flag writers VF after it, and
nothing else. -/

namespace Sys2Proof

/-! What the words of the register loads and the ALU instructions decode to (30_encoding.md R93). -/

section decode

variable (x y : Reg) (nn : Byte)

@[simp] theorem decodeWord_ldVxByte : decodeWord (formatXB 0x6 x nn) = .ok (.ldVxByte x nn) := by
  simp [decodeWord]

@[simp] theorem decodeWord_addVxByte : decodeWord (formatXB 0x7 x nn) = .ok (.addVxByte x nn) := by
  simp [decodeWord]

/-- Of the words of group 8, `N` selects the instruction. -/
theorem decodeWord_group8 (n : BitVec 4) : decodeWord (formatXYN 0x8 x y n) = decodeGroup8 n.toNat x y := by
  simp [decodeWord]

end decode

end Sys2Proof

namespace Sys2Proof.Machine

/-! The results as numbers: the operations of the model on bytes are those of the rules, taken modulo 256. -/

theorem byte_add_eq_ofNat (a b : Byte) : a + b = BitVec.ofNat 8 ((a.toNat + b.toNat) % 256) := by
  apply BitVec.eq_of_toNat_eq
  simp

theorem byte_sub_eq_ofNat (a b : Byte) : a - b = BitVec.ofNat 8 ((256 + a.toNat - b.toNat) % 256) := by
  apply BitVec.eq_of_toNat_eq
  rw [BitVec.toNat_sub, BitVec.toNat_ofNat]
  omega

theorem byte_ushiftRight_one_eq_ofNat (b : Byte) : b >>> 1 = BitVec.ofNat 8 (b.toNat / 2) := by
  apply BitVec.eq_of_toNat_eq
  rw [BitVec.toNat_ushiftRight, BitVec.toNat_ofNat, Nat.shiftRight_one]
  omega

theorem byte_shiftLeft_one_eq_ofNat (b : Byte) : b <<< 1 = BitVec.ofNat 8 (b.toNat * 2 % 256) := by
  apply BitVec.eq_of_toNat_eq
  simp [Nat.shiftLeft_eq]

/-! The bits the shifts move out, as comparisons. -/

theorem shrFlag_eq_decide (b : Byte) : shrFlag b = decide (b.toNat % 2 = 1) :=
  Nat.testBit_zero b.toNat

theorem shlFlag_eq_decide (b : Byte) : shlFlag b = decide (128 ≤ b.toNat) :=
  b.msb_eq_getLsbD_last.symm.trans b.msb_eq_decide

/-! Writing one register, and writing a result and then VF: the two effects of these instructions. -/

theorem State.setV_writesOnlyReg (s : State) (x : Reg) (b : Byte) : writesOnlyReg x b s (s.setV x b) := by
  refine ⟨fun r => s.setV_reg x r b, fun p hp => ?_⟩
  cases p
  case regs => simp at hp
  all_goals simp [Part.same]

theorem State.setVWithFlag_writesRegAndFlag (s : State) (x : Reg) (b : Byte) (f : Prop) [Decidable f] :
    writesRegAndFlag x b f s (s.setVWithFlag x b (decide f)) := by
  refine ⟨fun r => ?_, fun p hp => ?_⟩
  · simp [flagByte]
  · cases p
    case regs => simp at hp
    all_goals simp [Part.same]

/-- An instruction whose body writes a register completes and does nothing else. -/
theorem completes_of_exec_setV {i : Instr} {s : State} {x : Reg} {b : Byte} (h : exec i s = .next (s.setV x b)) :
    completes i s (writesOnlyReg x b s) :=
  ⟨_, h, s.setV_writesOnlyReg x b⟩

/-- An instruction whose body writes a result and then VF completes and does nothing else; the result `b` and the flag
`g` may be given by equal values `c` and `f`. -/
theorem completes_of_exec_setVWithFlag {i : Instr} {s : State} {x : Reg} {b c : Byte} {g : Bool} {f : Prop}
    [Decidable f] (h : exec i s = .next (s.setVWithFlag x b g)) (hb : b = c) (hg : g = decide f) :
    completes i s (writesRegAndFlag x c f s) := by
  subst hb hg
  exact ⟨_, h, s.setVWithFlag_writesRegAndFlag x b f⟩

/-- Settles O21: both bodies are one register write. -/
theorem loadsWriteOneRegister : Obligations.LoadsWriteOneRegister := by
  unfold Obligations.LoadsWriteOneRegister
  intro x y nn s
  exact ⟨⟨decodeWord_ldVxByte x nn, completes_of_exec_setV rfl⟩,
    ⟨decodeWord_group8 x y 0x0, completes_of_exec_setV rfl⟩⟩

/-- Settles O22: addition of bytes is addition modulo 256. -/
theorem addImmediateWraps : Obligations.AddImmediateWraps := by
  unfold Obligations.AddImmediateWraps
  intro x nn s
  rw [← byte_add_eq_ofNat]
  exact ⟨decodeWord_addVxByte x nn, completes_of_exec_setV rfl⟩

/-- Settles O23: the three bodies write one register and no flag. -/
theorem bitwiseOpsLeaveTheFlag : Obligations.BitwiseOpsLeaveTheFlag := by
  unfold Obligations.BitwiseOpsLeaveTheFlag
  intro x y s
  exact ⟨⟨decodeWord_group8 x y 0x1, completes_of_exec_setV rfl⟩,
    ⟨decodeWord_group8 x y 0x2, completes_of_exec_setV rfl⟩,
    ⟨decodeWord_group8 x y 0x3, completes_of_exec_setV rfl⟩⟩

/-- Settles O24: `carryFlag` compares the unbounded sum with 255. -/
theorem addSetsCarry : Obligations.AddSetsCarry := by
  unfold Obligations.AddSetsCarry
  intro x y s
  exact ⟨decodeWord_group8 x y 0x4, completes_of_exec_setVWithFlag rfl (byte_add_eq_ofNat _ _) rfl⟩

/-- Settles O25: `noBorrowFlag` compares the old operands, in the order of the subtraction. -/
theorem subtractionsSetNotBorrow : Obligations.SubtractionsSetNotBorrow := by
  unfold Obligations.SubtractionsSetNotBorrow
  intro x y s
  exact ⟨⟨decodeWord_group8 x y 0x5, completes_of_exec_setVWithFlag rfl (byte_sub_eq_ofNat _ _) rfl⟩,
    ⟨decodeWord_group8 x y 0x7, completes_of_exec_setVWithFlag rfl (byte_sub_eq_ofNat _ _) rfl⟩⟩

/-- Settles O26: `op` is the shift operand under either setting of `Q.shift`. -/
theorem shiftRightHalvesTheOperand : Obligations.ShiftRightHalvesTheOperand := by
  unfold Obligations.ShiftRightHalvesTheOperand
  intro x y s op hop
  rw [← State.shiftOperand] at hop
  subst hop
  exact ⟨decodeWord_group8 x y 0x6,
    completes_of_exec_setVWithFlag rfl (byte_ushiftRight_one_eq_ofNat _) (shrFlag_eq_decide _)⟩

/-- Settles O27: `op` is the shift operand under either setting of `Q.shift`. -/
theorem shiftLeftDoublesTheOperand : Obligations.ShiftLeftDoublesTheOperand := by
  unfold Obligations.ShiftLeftDoublesTheOperand
  intro x y s op hop
  rw [← State.shiftOperand] at hop
  subst hop
  exact ⟨decodeWord_group8 x y 0xE,
    completes_of_exec_setVWithFlag rfl (byte_shiftLeft_one_eq_ofNat _) (shlFlag_eq_decide _)⟩

end Sys2Proof.Machine

/-! Index register (42_index_memory.md): `LD I, addr`, `ADD I, Vx` and `LD F, Vx` write `I`, `ADD I, Vx` then VF, and
nothing else. -/

namespace Sys2Proof

/-! What the words of these three instructions decode to (30_encoding.md R93). -/

section decode

variable (x : Reg) (nn : Byte) (nnn : Addr12)

@[simp] theorem decodeWord_ldIAddr : decodeWord (formatA 0xA nnn) = .ok (.ldIAddr nnn) := by
  simp [decodeWord]

/-- Of the words of group F, `NN` selects the instruction. -/
theorem decodeWord_groupF : decodeWord (formatXB 0xF x nn) = decodeGroupF nn.toNat x := by
  simp [decodeWord]

end decode

end Sys2Proof

namespace Sys2Proof.Machine

/-! The address of a glyph as a number. -/

@[simp] theorem lowNibble_val (b : Byte) : (lowNibble b).val = b.toNat % 16 := by
  simp [lowNibble, BitVec.extractLsb'_toNat]

/-- The last glyph begins at 0x09B, so `I` holds the address whole. -/
theorem glyphAddr_toNat (d : Reg) : (glyphAddr d).toNat = 0x050 + 5 * d.val := by
  have hd : d.val < 16 := d.isLt
  rw [glyphAddr, BitVec.toNat_ofNat, Config.fontBase]
  omega

/-! Writing `I`, and writing `I` and then VF: the two effects of these instructions. -/

theorem State.setI_unchangedExcept (s : State) (w : Word) : unchangedExcept [.index] s (s.setI w) := by
  intro p hp
  cases p
  case index => simp at hp
  all_goals simp [Part.same]

theorem State.setI_setFlag_unchangedExcept (s : State) (w : Word) (f : Bool) :
    unchangedExcept [.regs, .index] s ((s.setI w).setFlag f) := by
  intro p hp
  cases p
  case regs => simp at hp
  case index => simp at hp
  all_goals simp [Part.same]

/-- Settles O31: the body writes `NNN`, zero-extended, to `I`. -/
theorem loadIndexIsZeroExtended : Obligations.LoadIndexIsZeroExtended := by
  unfold Obligations.LoadIndexIsZeroExtended
  intro nnn s
  exact ⟨decodeWord_ldIAddr nnn, _, rfl, zextAddr_toNat nnn, s.setI_unchangedExcept _⟩

/-- Settles O32: `I` and the flag are both taken from the old operands, so `X` may be VF. -/
theorem addToIndexSetsOverflow : Obligations.AddToIndexSetsOverflow := by
  unfold Obligations.AddToIndexSetsOverflow
  intro x s
  refine ⟨decodeWord_groupF x 0x1E, _, rfl, ?index, ?regs, s.setI_setFlag_unchangedExcept _ _⟩
  case index => exact BitVec.toNat_ofNat _ 16
  case regs =>
    intro r
    simp [flagByte, indexFlag]

/-- Settles O33: the digit is `V[X]` modulo 16, and its glyph address fits `I`. -/
theorem glyphAddressOfLowNibble : Obligations.GlyphAddressOfLowNibble := by
  unfold Obligations.GlyphAddressOfLowNibble
  intro x s
  refine ⟨decodeWord_groupF x 0x29, _, rfl, ?_, s.setI_unchangedExcept _⟩
  rw [State.setI_i, glyphAddr_toNat, lowNibble_val]

end Sys2Proof.Machine

namespace Sys2Proof.Machine

/-- Replacing the frame buffer keeps every other part, the registers and so VF among them (R190's frame). -/
theorem State.setFb_unchangedExcept (s : State) (f : Frame) : unchangedExcept [.fb] s (s.setFb f) := by
  intro p hp
  cases p
  case fb => simp at hp
  all_goals simp [Part.same]

/-- Settles O39: the body replaces the frame buffer by the blank one. -/
theorem clearTurnsEveryPixelOff : Obligations.ClearTurnsEveryPixelOff := by
  unfold Obligations.ClearTurnsEveryPixelOff
  refine ⟨by decide, fun s => ⟨s.setFb Frame.blank, rfl, ?pixels, s.setFb_unchangedExcept _⟩⟩
  case pixels =>
    intro x y
    rw [State.setFb_fb, Frame.pixel_blank]

end Sys2Proof.Machine

/-! Keypad and timers (44_keypad_timers.md): the key skips write `PC`, the timer instructions one byte. -/

namespace Sys2Proof

/-- Of the words of group E, `NN` selects the instruction (30_encoding.md R93). -/
theorem decodeWord_groupE (x : Reg) (nn : Byte) : decodeWord (formatXB 0xE x nn) = decodeGroupE nn.toNat x := by
  simp [decodeWord]

end Sys2Proof

namespace Sys2Proof.Machine

/-- The key number of 44_keypad_timers.md R210 is the low nibble that the instruction takes. -/
theorem lowNibble_eq_of_val {b : Byte} {k : Reg} (hk : k.val = b.toNat % 16) : lowNibble b = k :=
  Fin.ext ((lowNibble_val b).trans hk.symm)

/-! Writing a timer, the one effect of `LD DT, Vx` and of `LD ST, Vx`. -/

theorem State.setDt_unchangedExcept (s : State) (b : Byte) : unchangedExcept [.dt] s (s.setDt b) := by
  intro p hp
  cases p
  case dt => simp at hp
  all_goals simp [Part.same]

theorem State.setSt_unchangedExcept (s : State) (b : Byte) : unchangedExcept [.st] s (s.setSt b) := by
  intro p hp
  cases p
  case st => simp at hp
  all_goals simp [Part.same]

/-- Settles O42: each skip is `skipIf` of whether the key named by the low nibble is down, or is not. -/
theorem keySkipsTestTheLowNibble : Obligations.KeySkipsTestTheLowNibble := by
  unfold Obligations.KeySkipsTestTheLowNibble
  intro x k s hk
  have hkey : lowNibble (s.reg x) = k := lowNibble_eq_of_val hk
  have hskp : exec (.skpVx x) s = .next (s.skipIf (s.keyDown k)) := hkey ▸ rfl
  have hsknp : exec (.sknpVx x) s = .next (s.skipIf (!s.keyDown k)) := hkey ▸ rfl
  refine ⟨⟨decodeWord_groupE x 0x9E, completes_of_exec_skipIf hskp⟩, ⟨decodeWord_groupE x 0xA1, ?_⟩⟩
  simpa [← Bool.not_eq_true] using completes_of_exec_skipIf hsknp

/-- Settles O45: the bodies write `V[X]`, `DT` and `ST`, and nothing else. -/
theorem timerInstructionsMoveOneByte : Obligations.TimerInstructionsMoveOneByte := by
  unfold Obligations.TimerInstructionsMoveOneByte
  intro x s
  exact ⟨⟨decodeWord_groupF x 0x07, completes_of_exec_setV rfl⟩,
    ⟨decodeWord_groupF x 0x15, _, rfl, s.setDt_dt _, s.setDt_unchangedExcept _⟩,
    ⟨decodeWord_groupF x 0x18, _, rfl, s.setSt_st _, s.setSt_unchangedExcept _⟩⟩

end Sys2Proof.Machine

/-! Host operations (46_host_operations.md): loading a program writes memory, the key and quirk inputs their own part,
and the two views nothing. -/

namespace Sys2Proof.Machine

/-! Writing memory, one key slot and the quirks: the effects of these operations. -/

theorem State.setMem_unchangedExcept (s : State) (m : Memory) : unchangedExcept [.mem] s (s.setMem m) := by
  intro p hp
  cases p
  case mem => simp at hp
  all_goals simp [Part.same]

theorem State.setKeyBit_unchangedExcept (s : State) (k : Reg) (b : Bool) :
    unchangedExcept [.key] s (s.setKeyBit k b) := by
  intro p hp
  cases p
  case key => simp at hp
  all_goals simp [Part.same]

theorem State.setQ_unchangedExcept (s : State) (q : Quirks) : unchangedExcept [.quirks] s (s.setQ q) := by
  intro p hp
  cases p
  case quirks => simp at hp
  all_goals simp [Part.same]

/-! Loading a program, for the images refused and for those copied (46_host_operations.md R231). -/

theorem tooLarge_eq_true {bytes : List Byte} : tooLarge bytes = true ↔ 3584 < bytes.length :=
  decide_eq_true_iff

theorem tooLarge_eq_false {bytes : List Byte} : tooLarge bytes = false ↔ bytes.length ≤ 3584 := by
  rw [← Bool.not_eq_true, tooLarge_eq_true, Nat.not_lt]

theorem hostOp_loadProgram_of_lt {bytes : List Byte} (s : State) (h : 3584 < bytes.length) :
    hostOp (.loadProgram bytes) s = (s, .programTooLarge) := by
  simp [hostOp, State.loadProgram, tooLarge_eq_true.2 h]

theorem hostOp_loadProgram_of_le {bytes : List Byte} (s : State) (h : bytes.length ≤ 3584) :
    hostOp (.loadProgram bytes) s = (s.setMem (Memory.writeBytes s.mem 0x200 bytes), .ok) := by
  simp [hostOp, State.loadProgram, tooLarge_eq_false.2 h]

/-- Reading inside the range where bytes were stored. -/
theorem read_writeBytes_inside {m : Memory} {a k : Nat} {bs : List Byte} (ha : a + bs.length ≤ Config.memSize)
    (hm : Memory.wf m) (hk : k < bs.length) : bs[k]? = some (Memory.read (Memory.writeBytes m a bs) (a + k)) := by
  rw [read_writeBytes bs m a (a + k) ha hm, if_pos (by omega), Nat.add_sub_cancel_left, List.getD_eq_getElem _ _ hk,
    List.getElem?_eq_getElem hk]

/-- Settles O55: 3584 bytes from 0x200 end at 0xFFF, so an image that is accepted lies in memory whole. -/
theorem loadProgramCopiesTheImage : Obligations.LoadProgramCopiesTheImage := by
  unfold Obligations.LoadProgramCopiesTheImage
  intro bytes s t r hwf h
  refine ⟨fun hlong => ?refused, fun hfits => ?copied⟩
  case refused =>
    rw [hostOp_loadProgram_of_lt s hlong] at h
    cases h
    exact ⟨rfl, rfl⟩
  case copied =>
    rw [hostOp_loadProgram_of_le s hfits] at h
    cases h
    have hin : 0x200 + bytes.length ≤ Config.memSize := Nat.add_le_add_left hfits 0x200
    exact ⟨rfl, s.setMem_unchangedExcept _, fun k hk => read_writeBytes_inside hin hwf hk,
      fun a ha => read_writeBytes_outside bytes s.mem 0x200 a ha⟩

/-- Settles O58: the bodies are `setKeyBit` and `setQ`. -/
theorem keyAndQuirkInputsWriteOnlyTheirs : Obligations.KeyAndQuirkInputsWriteOnlyTheirs := by
  unfold Obligations.KeyAndQuirkInputsWriteOnlyTheirs
  exact ⟨fun k b s => ⟨fun j => s.setKeyBit_keyDown k j b, s.setKeyBit_unchangedExcept k b⟩,
    fun a b c s => ⟨s.setQ_q ⟨a, b, c⟩, s.setQ_unchangedExcept ⟨a, b, c⟩⟩⟩

/-! What the two views show (46_host_operations.md R237, R238). -/

theorem State.framebuffer_length (s : State) : s.framebuffer.length = 2048 := by
  simp [State.framebuffer]

/-- The place `y * 64 + x` names the column and the row again, as remainder and quotient. -/
theorem State.framebuffer_getElem? (s : State) {x y : Nat} (hx : x < 64) (hy : y < 32) :
    s.framebuffer[y * 64 + x]? = some (Frame.pixel s.fb x y) := by
  have hk : y * 64 + x < 2048 := by omega
  have hcol : (y * 64 + x) % 64 = x := by omega
  have hrow : (y * 64 + x) / 64 = y := by omega
  rw [State.framebuffer, List.getElem?_map, List.getElem?_range hk, Option.map_some, hcol, hrow]

theorem State.soundTimerActive_eq_decide (s : State) : s.soundTimerActive = decide (0 < s.st.toNat) := by
  have hzero : s.st = 0 ↔ s.st.toNat = 0 := BitVec.toNat_eq
  rw [State.soundTimerActive, Bool.eq_iff_iff, bne_iff_ne, decide_eq_true_iff, Nat.pos_iff_ne_zero, ne_eq, hzero]

/-- Settles O59: the views are functions of the display and of `ST`, and the state is passed through. -/
theorem viewsReadWithoutChange : Obligations.ViewsReadWithoutChange := by
  unfold Obligations.ViewsReadWithoutChange
  intro s
  refine ⟨⟨s.framebuffer, rfl, s.framebuffer_length, fun x y hx hy => s.framebuffer_getElem? hx hy⟩, ?sound⟩
  case sound => rw [hostOp, s.soundTimerActive_eq_decide]

end Sys2Proof.Machine

namespace Sys2Proof.Machine

/-! What the power-on state shows through the accessors (10_state.md R41). -/

@[simp] theorem State.reset_reg (r : Reg) : State.reset.reg r = 0 := Vector.getElem_replicate _

@[simp] theorem State.reset_stackAt (k : Reg) : State.reset.stackAt k = 0 := Vector.getElem_replicate _

@[simp] theorem State.reset_keyDown (k : Reg) : State.reset.keyDown k = false := Vector.getElem_replicate _

@[simp] theorem State.reset_fb : State.reset.fb = Frame.blank := rfl

theorem font_length : font.length = 80 := rfl

/-- The font ends at 0x09F: past it `unlisted` finds no font byte, and so 0. -/
theorem unlisted_eq_ite (a : Nat) : unlisted a = if 0x050 ≤ a ∧ a < 0x0A0 then font.getD (a - 0x050) 0 else 0 := by
  rw [unlisted, Config.fontBase_eq, ite_and]
  split
  case isFalse => rfl
  case isTrue =>
    split
    case isTrue => rfl
    case isFalse hend =>
      have hpast : font.length ≤ a - 0x050 := by rw [font_length]; omega
      exact List.getD_eq_default _ _ hpast

theorem State.reset_byteAt (a : Nat) : State.reset.byteAt a = unlisted a := rfl

/-! The reset operation through the accessors: each answers as at power-on (70_reset_and_hazards.md R300). -/

section restart

variable (s : State)

@[simp] theorem State.restart_reg (r : Reg) : s.restart.reg r = State.reset.reg r := rfl
@[simp] theorem State.restart_stackAt (k : Reg) : s.restart.stackAt k = State.reset.stackAt k := rfl
@[simp] theorem State.restart_keyDown (k : Reg) : s.restart.keyDown k = State.reset.keyDown k := rfl
@[simp] theorem State.restart_byteAt (a : Nat) : s.restart.byteAt a = State.reset.byteAt a := rfl

end restart

/-- Settles O54: the body is `restart`, which takes every part but `Q` and the draw counter from the power-on state. -/
theorem resetKeepsOnlyTheQuirks : Obligations.ResetKeepsOnlyTheQuirks := by
  unfold Obligations.ResetKeepsOnlyTheQuirks
  intro s t ht
  have hrestart : t = s.restart := ht
  subst hrestart
  refine ⟨?regs, s.restart_i, s.restart_pc, s.restart_sp, ?stack, s.restart_dt, s.restart_st, ?pixels, ?keys,
    s.restart_err, ?memory, s.restart_q⟩
  case regs => exact fun r => (s.restart_reg r).trans (State.reset_reg r)
  case stack => exact fun k => (s.restart_stackAt k).trans (State.reset_stackAt k)
  case pixels =>
    intro x y
    rw [State.restart_fb, State.reset_fb, Frame.pixel_blank]
  case keys => exact fun k => (s.restart_keyDown k).trans (State.reset_keyDown k)
  case memory =>
    intro a
    rw [State.restart_byteAt, State.reset_byteAt, unlisted_eq_ite]

end Sys2Proof.Machine

/-! Encoding (30_encoding.md): the decoder, the encoder and the opcode map agree on every word. -/

namespace Sys2Proof

/-! The instructions whose words the lemmas above leave out (30_encoding.md R93). -/

section decode

variable (x y : Reg) (nn : Byte) (nnn : Addr12)

@[simp] theorem decodeWord_callAddr : decodeWord (formatA 0x2 nnn) = .ok (.callAddr nnn) := by
  simp [decodeWord]

@[simp] theorem decodeWord_rndVxByte : decodeWord (formatXB 0xC x nn) = .ok (.rndVxByte x nn) := by
  simp [decodeWord]

/-- A row count of at most 15 survives its four bits (30_encoding.md R94). -/
theorem decodeWord_drwVxVyNibble {n : Nat} (hn : n ≤ 15) :
    decodeWord (formatXYN 0xD x y (BitVec.ofNat 4 n)) = .ok (.drwVxVyNibble x y n) := by
  have hfits : n % 16 = n := Nat.mod_eq_of_lt (Nat.lt_succ_of_le hn)
  simp [decodeWord, hfits]

end decode

/-- Decoding undoes encoding: the word of each instruction lands in the arm that answers it. -/
theorem decodeWord_encode {i : Instr} (hi : i.wellFormed = true) : decodeWord (encode i) = .ok i := by
  cases i with
  | cls => rfl
  | ret => rfl
  | jpAddr nnn => exact decodeWord_jpAddr nnn
  | callAddr nnn => exact decodeWord_callAddr nnn
  | seVxByte x nn => exact decodeWord_seVxByte x nn
  | sneVxByte x nn => exact decodeWord_sneVxByte x nn
  | seVxVy x y => exact decodeWord_seVxVy x y
  | ldVxByte x nn => exact decodeWord_ldVxByte x nn
  | addVxByte x nn => exact decodeWord_addVxByte x nn
  | ldVxVy x y | orVxVy x y | andVxVy x y | xorVxVy x y | addVxVy x y | subVxVy x y | shrVxVy x y | subnVxVy x y
  | shlVxVy x y => exact decodeWord_group8 x y _
  | sneVxVy x y => exact decodeWord_sneVxVy x y
  | ldIAddr nnn => exact decodeWord_ldIAddr nnn
  | jpV0Addr nnn => exact decodeWord_jpV0Addr nnn
  | rndVxByte x nn => exact decodeWord_rndVxByte x nn
  | drwVxVyNibble x y n => exact decodeWord_drwVxVyNibble x y (of_decide_eq_true hi)
  | skpVx x | sknpVx x => exact decodeWord_groupE x _
  | ldVxDt x | ldVxK x | ldDtVx x | ldStVx x | addIVx x | ldFVx x | ldBVx x | ldMemVx x | ldVxMem x =>
    exact decodeWord_groupF x _

/-- Two bytes are decoded as the word they make, whatever follows them. -/
theorem decodeBytes_eq_ok_iff {hi lo : Byte} {rest rest' : List Byte} {i : Instr} :
    decodeBytes (hi :: lo :: rest) = .ok (i, rest') ↔ decodeWord (wordOfBytes hi lo) = .ok i ∧ rest = rest' := by
  simp only [decodeBytes]
  cases decodeWord (wordOfBytes hi lo) <;> simp

/-- Settles O2: `decodeWord_encode`, and the two bytes of a word make the word again. -/
theorem encodedInstructionDecodesToItself : Obligations.EncodedInstructionDecodesToItself := by
  unfold Obligations.EncodedInstructionDecodesToItself
  intro i hi
  have hword : decodeWord (encode i) = .ok i := decodeWord_encode hi
  refine ⟨hword, fun rest => decodeBytes_eq_ok_iff.2 ⟨?_, rfl⟩⟩
  rw [wordOfBytes_bytes, hword]

/-! A word is laid out again from its own fields, given what its opcode and its last field are. -/

section layout

variable {w : Word} {op : BitVec 4}

theorem formatA_fields (hop : fieldOp w = op) : formatA op (fieldNNN w) = w := by
  apply BitVec.eq_of_toNat_eq
  rw [formatA_toNat, ← hop, fieldOp_toNat, fieldNNN_toNat]
  omega

theorem formatXB_fields {nn : Byte} (hop : fieldOp w = op) (hnn : fieldNN w = nn) : formatXB op (fieldX w) nn = w := by
  apply BitVec.eq_of_toNat_eq
  rw [formatXB_toNat, ← hop, ← hnn, fieldOp_toNat, fieldX_val, fieldNN_toNat]
  omega

theorem formatXYN_fields {n : BitVec 4} (hop : fieldOp w = op) (hn : fieldN w = n) :
    formatXYN op (fieldX w) (fieldY w) n = w := by
  apply BitVec.eq_of_toNat_eq
  rw [formatXYN_toNat, ← hop, ← hn, fieldOp_toNat, fieldX_val, fieldY_val, fieldN_toNat]
  omega

end layout

/-! What the groups dispatched on a second field accept. -/

theorem encode_of_decodeGroup8 {n : BitVec 4} {x y : Reg} {i : Instr} (h : decodeGroup8 n.toNat x y = .ok i) :
    encode i = formatXYN 0x8 x y n ∧ i.wellFormed = true := by
  unfold decodeGroup8 at h
  split at h
  case h_10 => cases h
  all_goals
    rename_i hn
    cases h
    exact ⟨congrArg (formatXYN 0x8 x y) (BitVec.eq_of_toNat_eq hn.symm), rfl⟩

theorem encode_of_decodeGroupE {nn : Byte} {x : Reg} {i : Instr} (h : decodeGroupE nn.toNat x = .ok i) :
    encode i = formatXB 0xE x nn ∧ i.wellFormed = true := by
  unfold decodeGroupE at h
  split at h
  case h_3 => cases h
  all_goals
    rename_i hnn
    cases h
    exact ⟨congrArg (formatXB 0xE x) (BitVec.eq_of_toNat_eq hnn.symm), rfl⟩

theorem encode_of_decodeGroupF {nn : Byte} {x : Reg} {i : Instr} (h : decodeGroupF nn.toNat x = .ok i) :
    encode i = formatXB 0xF x nn ∧ i.wellFormed = true := by
  unfold decodeGroupF at h
  split at h
  case h_10 => cases h
  all_goals
    rename_i hnn
    cases h
    exact ⟨congrArg (formatXB 0xF x) (BitVec.eq_of_toNat_eq hnn.symm), rfl⟩

theorem encode_drwVxVyNibble_fields {w : Word} (hop : fieldOp w = 0xD) :
    encode (.drwVxVyNibble (fieldX w) (fieldY w) (fieldN w).toNat) = w := by
  rw [encode, BitVec.ofNat_toNat, BitVec.setWidth_eq]
  exact formatXYN_fields hop rfl

/-- Each arm of the decoder takes the fields that its instruction's format lays out. -/
theorem encode_of_decodeWord {w : Word} {i : Instr} (h : decodeWord w = .ok i) :
    encode i = w ∧ i.wellFormed = true := by
  have hopOf : ∀ {op : BitVec 4}, (fieldOp w).toNat = op.toNat → fieldOp w = op := BitVec.eq_of_toNat_eq
  unfold decodeWord at h
  split at h
  case h_1 =>
    split at h
    case isTrue hcls => cases h; exact ⟨hcls.symm, rfl⟩
    case isFalse =>
      split at h
      case isTrue hret => cases h; exact ⟨hret.symm, rfl⟩
      case isFalse => cases h
  case h_6 hop | h_10 hop =>
    split at h
    case isTrue hn => cases h; exact ⟨formatXYN_fields (hopOf hop) hn, rfl⟩
    case isFalse => cases h
  case h_9 hop =>
    obtain ⟨henc, hwf⟩ := encode_of_decodeGroup8 h
    exact ⟨henc.trans (formatXYN_fields (hopOf hop) rfl), hwf⟩
  case h_14 hop =>
    cases h
    exact ⟨encode_drwVxVyNibble_fields (hopOf hop), decide_eq_true (Nat.le_of_lt_succ (fieldN w).isLt)⟩
  case h_15 hop =>
    obtain ⟨henc, hwf⟩ := encode_of_decodeGroupE h
    exact ⟨henc.trans (formatXB_fields (hopOf hop) rfl), hwf⟩
  case h_16 =>
    have hop : (fieldOp w).toNat = 15 := by
      have hlt := (fieldOp w).isLt
      simp only [imp_false] at *
      omega
    obtain ⟨henc, hwf⟩ := encode_of_decodeGroupF h
    exact ⟨henc.trans (formatXB_fields (hopOf hop) rfl), hwf⟩
  case h_2 hop | h_3 hop | h_11 hop | h_12 hop => cases h; exact ⟨formatA_fields (hopOf hop), rfl⟩
  case h_4 hop | h_5 hop | h_7 hop | h_8 hop | h_13 hop => cases h; exact ⟨formatXB_fields (hopOf hop) rfl, rfl⟩

/-- Settles O3: `encode_of_decodeWord`. -/
theorem decodedWordEncodesToItself : Obligations.DecodedWordEncodesToItself := by
  unfold Obligations.DecodedWordEncodesToItself
  exact fun w i h => encode_of_decodeWord h

/-- The accepted words are the encodings of the well-formed instructions. -/
theorem decodeWord_eq_ok_iff {w : Word} {i : Instr} :
    decodeWord w = .ok i ↔ encode i = w ∧ i.wellFormed = true :=
  ⟨encode_of_decodeWord, fun ⟨henc, hwf⟩ => henc ▸ decodeWord_encode hwf⟩

/-! The opcode map (30_encoding.md R93): its rows are the rows of the instructions. -/

theorem mem_opcodeTable_iff {r : OpcodeRow} : r ∈ opcodeTable ↔ ∃ i : Instr, opcodeRow i = r := by
  constructor
  · intro h
    obtain ⟨i, -, hi⟩ := List.mem_map.1 h
    exact ⟨i, hi⟩
  · rintro ⟨i, rfl⟩
    cases i <;> simp [opcodeTable, shapesLow, shapesMid, shapesHigh, opcodeRow]

/-- The encoding of an instruction carries the fixed bits of its row. -/
theorem rowMatches_encode (i : Instr) : rowMatches (opcodeRow i) (encode i) = true := by
  refine beq_iff_eq.2 ?_
  cases i with
  | cls => exact Laws.OpcodeRow.cls
  | ret => exact Laws.OpcodeRow.ret
  | jpAddr | callAddr | ldIAddr | jpV0Addr => exact Laws.OpcodeRow.formatA_mask _ _
  | seVxByte | sneVxByte | ldVxByte | addVxByte | rndVxByte => exact Laws.OpcodeRow.formatXB_mask _ _ _
  | seVxVy | sneVxVy | ldVxVy | orVxVy | andVxVy | xorVxVy | addVxVy | subVxVy | shrVxVy | subnVxVy | shlVxVy =>
    exact Laws.OpcodeRow.formatXYN_maskN _ _ _ _
  | drwVxVyNibble => exact Laws.OpcodeRow.formatXYN_mask _ _ _ _
  | skpVx | sknpVx | ldVxDt | ldVxK | ldDtVx | ldStVx | addIVx | ldFVx | ldBVx | ldMemVx | ldVxMem =>
    exact Laws.OpcodeRow.formatXB_maskNN _ _ _

/-! A word that carries a row's fixed bits is laid out from its own fields, by the bits the row's mask fixes. -/

section masked

variable {w m p : Word} {name : String} {op : BitVec 4}

theorem masked_of_rowMatches (h : rowMatches ⟨name, m, p⟩ w = true) : w &&& m = p := beq_iff_eq.1 h

theorem formatA_of_rowMatches (h : rowMatches ⟨name, 0xF000, p⟩ w = true) (hop : fieldOp p = op) :
    formatA op (fieldNNN w) = w :=
  formatA_fields ((fieldOp_of_masked (masked_of_rowMatches h) rfl).trans hop)

theorem formatXB_of_rowMatches (h : rowMatches ⟨name, 0xF000, p⟩ w = true) (hop : fieldOp p = op) :
    formatXB op (fieldX w) (fieldNN w) = w :=
  formatXB_fields ((fieldOp_of_masked (masked_of_rowMatches h) rfl).trans hop) rfl

theorem formatXB_of_rowMatches_fieldNN {nn : Byte} (h : rowMatches ⟨name, 0xF0FF, p⟩ w = true) (hop : fieldOp p = op)
    (hnn : fieldNN p = nn) : formatXB op (fieldX w) nn = w :=
  formatXB_fields ((fieldOp_of_masked (masked_of_rowMatches h) rfl).trans hop)
    ((fieldNN_of_masked (masked_of_rowMatches h) rfl).trans hnn)

theorem formatXYN_of_rowMatches {n : BitVec 4} (h : rowMatches ⟨name, 0xF00F, p⟩ w = true) (hop : fieldOp p = op)
    (hn : fieldN p = n) : formatXYN op (fieldX w) (fieldY w) n = w :=
  formatXYN_fields ((fieldOp_of_masked (masked_of_rowMatches h) rfl).trans hop)
    ((fieldN_of_masked (masked_of_rowMatches h) rfl).trans hn)

/-- A row that fixes every bit is matched by its pattern alone. -/
theorem eq_pattern_of_rowMatches (h : rowMatches ⟨name, 0xFFFF, p⟩ w = true) : p = w :=
  (masked_of_rowMatches h).symm.trans (BitVec.and_allOnes (x := w))

end masked

/-- A word that matches an instruction's row encodes an instruction of that row, its operands the word's fields. -/
theorem exists_encode_of_rowMatches {j : Instr} {w : Word} (h : rowMatches (opcodeRow j) w = true) :
    ∃ i : Instr, (encode i = w ∧ i.wellFormed = true) ∧ opcodeRow i = opcodeRow j := by
  cases j with
  | cls => exact ⟨.cls, ⟨eq_pattern_of_rowMatches h, rfl⟩, rfl⟩
  | ret => exact ⟨.ret, ⟨eq_pattern_of_rowMatches h, rfl⟩, rfl⟩
  | jpAddr => exact ⟨.jpAddr (fieldNNN w), ⟨formatA_of_rowMatches h rfl, rfl⟩, rfl⟩
  | callAddr => exact ⟨.callAddr (fieldNNN w), ⟨formatA_of_rowMatches h rfl, rfl⟩, rfl⟩
  | ldIAddr => exact ⟨.ldIAddr (fieldNNN w), ⟨formatA_of_rowMatches h rfl, rfl⟩, rfl⟩
  | jpV0Addr => exact ⟨.jpV0Addr (fieldNNN w), ⟨formatA_of_rowMatches h rfl, rfl⟩, rfl⟩
  | seVxByte => exact ⟨.seVxByte (fieldX w) (fieldNN w), ⟨formatXB_of_rowMatches h rfl, rfl⟩, rfl⟩
  | sneVxByte => exact ⟨.sneVxByte (fieldX w) (fieldNN w), ⟨formatXB_of_rowMatches h rfl, rfl⟩, rfl⟩
  | ldVxByte => exact ⟨.ldVxByte (fieldX w) (fieldNN w), ⟨formatXB_of_rowMatches h rfl, rfl⟩, rfl⟩
  | addVxByte => exact ⟨.addVxByte (fieldX w) (fieldNN w), ⟨formatXB_of_rowMatches h rfl, rfl⟩, rfl⟩
  | rndVxByte => exact ⟨.rndVxByte (fieldX w) (fieldNN w), ⟨formatXB_of_rowMatches h rfl, rfl⟩, rfl⟩
  | seVxVy => exact ⟨.seVxVy (fieldX w) (fieldY w), ⟨formatXYN_of_rowMatches h rfl rfl, rfl⟩, rfl⟩
  | sneVxVy => exact ⟨.sneVxVy (fieldX w) (fieldY w), ⟨formatXYN_of_rowMatches h rfl rfl, rfl⟩, rfl⟩
  | ldVxVy => exact ⟨.ldVxVy (fieldX w) (fieldY w), ⟨formatXYN_of_rowMatches h rfl rfl, rfl⟩, rfl⟩
  | orVxVy => exact ⟨.orVxVy (fieldX w) (fieldY w), ⟨formatXYN_of_rowMatches h rfl rfl, rfl⟩, rfl⟩
  | andVxVy => exact ⟨.andVxVy (fieldX w) (fieldY w), ⟨formatXYN_of_rowMatches h rfl rfl, rfl⟩, rfl⟩
  | xorVxVy => exact ⟨.xorVxVy (fieldX w) (fieldY w), ⟨formatXYN_of_rowMatches h rfl rfl, rfl⟩, rfl⟩
  | addVxVy => exact ⟨.addVxVy (fieldX w) (fieldY w), ⟨formatXYN_of_rowMatches h rfl rfl, rfl⟩, rfl⟩
  | subVxVy => exact ⟨.subVxVy (fieldX w) (fieldY w), ⟨formatXYN_of_rowMatches h rfl rfl, rfl⟩, rfl⟩
  | shrVxVy => exact ⟨.shrVxVy (fieldX w) (fieldY w), ⟨formatXYN_of_rowMatches h rfl rfl, rfl⟩, rfl⟩
  | subnVxVy => exact ⟨.subnVxVy (fieldX w) (fieldY w), ⟨formatXYN_of_rowMatches h rfl rfl, rfl⟩, rfl⟩
  | shlVxVy => exact ⟨.shlVxVy (fieldX w) (fieldY w), ⟨formatXYN_of_rowMatches h rfl rfl, rfl⟩, rfl⟩
  | skpVx => exact ⟨.skpVx (fieldX w), ⟨formatXB_of_rowMatches_fieldNN h rfl rfl, rfl⟩, rfl⟩
  | sknpVx => exact ⟨.sknpVx (fieldX w), ⟨formatXB_of_rowMatches_fieldNN h rfl rfl, rfl⟩, rfl⟩
  | ldVxDt => exact ⟨.ldVxDt (fieldX w), ⟨formatXB_of_rowMatches_fieldNN h rfl rfl, rfl⟩, rfl⟩
  | ldVxK => exact ⟨.ldVxK (fieldX w), ⟨formatXB_of_rowMatches_fieldNN h rfl rfl, rfl⟩, rfl⟩
  | ldDtVx => exact ⟨.ldDtVx (fieldX w), ⟨formatXB_of_rowMatches_fieldNN h rfl rfl, rfl⟩, rfl⟩
  | ldStVx => exact ⟨.ldStVx (fieldX w), ⟨formatXB_of_rowMatches_fieldNN h rfl rfl, rfl⟩, rfl⟩
  | addIVx => exact ⟨.addIVx (fieldX w), ⟨formatXB_of_rowMatches_fieldNN h rfl rfl, rfl⟩, rfl⟩
  | ldFVx => exact ⟨.ldFVx (fieldX w), ⟨formatXB_of_rowMatches_fieldNN h rfl rfl, rfl⟩, rfl⟩
  | ldBVx => exact ⟨.ldBVx (fieldX w), ⟨formatXB_of_rowMatches_fieldNN h rfl rfl, rfl⟩, rfl⟩
  | ldMemVx => exact ⟨.ldMemVx (fieldX w), ⟨formatXB_of_rowMatches_fieldNN h rfl rfl, rfl⟩, rfl⟩
  | ldVxMem => exact ⟨.ldVxMem (fieldX w), ⟨formatXB_of_rowMatches_fieldNN h rfl rfl, rfl⟩, rfl⟩
  | drwVxVyNibble =>
    have hop : fieldOp w = 0xD := fieldOp_of_masked (masked_of_rowMatches h) rfl
    exact ⟨.drwVxVyNibble (fieldX w) (fieldY w) (fieldN w).toNat,
      ⟨encode_drwVxVyNibble_fields hop, decide_eq_true (Nat.le_of_lt_succ (fieldN w).isLt)⟩, rfl⟩

/-- Settles O5: the two directions above, through the encodings. -/
theorem decoderFollowsTheOpcodeMap : Obligations.DecoderFollowsTheOpcodeMap := by
  unfold Obligations.DecoderFollowsTheOpcodeMap
  intro w
  refine ⟨fun i hi => ⟨mem_opcodeTable_iff.2 ⟨i, rfl⟩, ?_⟩, fun r hr hmatch => ?_⟩
  · obtain ⟨rfl, -⟩ := encode_of_decodeWord hi
    exact rowMatches_encode i
  · obtain ⟨j, rfl⟩ := mem_opcodeTable_iff.1 hr
    obtain ⟨i, henc, hrow⟩ := exists_encode_of_rowMatches hmatch
    exact ⟨i, decodeWord_eq_ok_iff.2 henc, hrow⟩

/-- Settles O4: rows that match one word are the row of the one instruction it decodes to. -/
theorem atMostOneRowMatches : Obligations.AtMostOneRowMatches := by
  unfold Obligations.AtMostOneRowMatches
  refine ⟨rfl, fun w r1 r2 h1 h2 hm1 hm2 => ?_⟩
  obtain ⟨i1, hi1, hrow1⟩ := (decoderFollowsTheOpcodeMap w).2 r1 h1 hm1
  obtain ⟨i2, hi2, hrow2⟩ := (decoderFollowsTheOpcodeMap w).2 r2 h2 hm2
  have hsame : i1 = i2 := Except.ok.inj (hi1.symm.trans hi2)
  rw [← hrow1, ← hrow2, hsame]

/-- Settles O1: fifteen words, each evaluated. -/
theorem sampleWordsDecode : Obligations.SampleWordsDecode := by
  unfold Obligations.SampleWordsDecode
  decide

/-! The words that each group rejects (30_encoding.md R97). -/

theorem decodeGroup8_rejects_iff (n : Nat) (x y : Reg) :
    (∃ g, decodeGroup8 n x y = .error g) ↔ 8 ≤ n ∧ n ≠ 14 := by
  unfold decodeGroup8
  split
  case h_10 =>
    simp only [imp_false] at *
    simp only [Except.error.injEq, exists_eq', true_iff]
    omega
  all_goals simp

theorem decodeGroupE_rejects_iff (nn : Nat) (x : Reg) :
    (∃ g, decodeGroupE nn x = .error g) ↔ nn ≠ 0x9E ∧ nn ≠ 0xA1 := by
  unfold decodeGroupE
  split
  case h_3 hskp hsknp => simpa using ⟨hskp, hsknp⟩
  all_goals simp

theorem decodeGroupF_rejects_iff (nn : Nat) (x : Reg) :
    (∃ g, decodeGroupF nn x = .error g) ↔ nn ∉ [0x07, 0x0A, 0x15, 0x18, 0x1E, 0x29, 0x33, 0x55, 0x65] := by
  unfold decodeGroupF
  split
  case h_10 =>
    simp only [imp_false] at *
    simp [*]
  all_goals simp

/-- A decoder that tests one word or field accepts it and rejects every other. -/
theorem ite_rejects_iff {c : Prop} [Decidable c] {i : Instr} {r : Except IllegalGroup Instr} :
    (∃ g, (if c then .ok i else r) = .error g) ↔ ¬ c ∧ ∃ g, r = .error g := by
  split <;> simp [*]

/-- Settles O6: by opcode; the groups 8, E and F are dispatched once more. -/
theorem illegalWordsAreTheListedGroups : Obligations.IllegalWordsAreTheListedGroups := by
  unfold Obligations.IllegalWordsAreTheListedGroups
  intro w
  have hword : ∀ c : Word, w = c ↔ w.toNat = c.toNat := fun c => BitVec.toNat_eq
  have hn : fieldN w = 0#4 ↔ w.toNat % 16 = 0 := by rw [BitVec.toNat_eq, fieldN_toNat]; rfl
  unfold decodeWord
  rw [← fieldOp_toNat]
  split
  case h_1 hop => simp [ite_rejects_iff, hword, hop]
  case h_6 hop | h_10 hop => simp [ite_rejects_iff, hn, hop]
  case h_9 hop => simp [decodeGroup8_rejects_iff, fieldN_toNat, hop]
  case h_15 hop => simp [decodeGroupE_rejects_iff, fieldNN_toNat, hop]
  case h_16 =>
    have hop : (fieldOp w).toNat = 15 := by
      have hlt := (fieldOp w).isLt
      simp only [imp_false] at *
      omega
    simp [decodeGroupF_rejects_iff, fieldNN_toNat, hop]
  all_goals
    rename_i hop
    simp [hop]

end Sys2Proof

/-! Frames: what an instruction's body leaves unchanged (10_state.md R44), put together from its single writes. -/

namespace Sys2Proof.Machine

theorem unchangedExcept.mono {ps qs : List Part} {s t : State} (h : unchangedExcept ps s t) (hsub : ps ⊆ qs) :
    unchangedExcept qs s t := fun p hp => h p fun hmem => hp (hsub hmem)

/-- What two changes in a row leave unchanged. -/
theorem unchangedExcept.trans {ps qs : List Part} {s t u : State} (h1 : unchangedExcept ps s t)
    (h2 : unchangedExcept qs t u) : unchangedExcept (ps ++ qs) s u := by
  intro p hp
  obtain ⟨hps, hqs⟩ := not_or.1 (List.mem_append.not.1 hp)
  have hst := h1 p hps
  have htu := h2 p hqs
  cases p
  case regs | stack | mem | key => exact fun a => (htu a).trans (hst a)
  case fb => exact fun x y => (htu x y).trans (hst x y)
  all_goals exact Eq.trans htu hst

/-! The single writes that the lemmas above leave out. -/

section writes

variable (s : State)

theorem State.setV_unchangedExcept (x : Reg) (b : Byte) : unchangedExcept [.regs] s (s.setV x b) :=
  (s.setV_writesOnlyReg x b).2

theorem State.setFlag_unchangedExcept (f : Bool) : unchangedExcept [.regs] s (s.setFlag f) :=
  s.setV_unchangedExcept vf _

theorem State.setVWithFlag_unchangedExcept (x : Reg) (b : Byte) (f : Bool) :
    unchangedExcept [.regs] s (s.setVWithFlag x b f) :=
  ((s.setV_unchangedExcept x b).trans (State.setFlag_unchangedExcept _ f)).mono (by simp)

theorem State.setVs_unchangedExcept (vs : Vector Byte 16) : unchangedExcept [.regs] s (s.setVs vs) := by
  intro p hp
  cases p
  case regs => simp at hp
  all_goals simp [Part.same]

theorem State.setSp_unchangedExcept (b : Byte) : unchangedExcept [.sp] s (s.setSp b) := by
  intro p hp
  cases p
  case sp => simp at hp
  all_goals simp [Part.same]

theorem State.setStack_unchangedExcept (k : Reg) (w : Word) : unchangedExcept [.stack] s (s.setStack k w) := by
  intro p hp
  cases p
  case stack => simp at hp
  all_goals simp [Part.same]

theorem State.countDraw_unchangedExcept : unchangedExcept [.draws] s s.countDraw := by
  intro p hp
  cases p
  case draws => simp at hp
  all_goals simp [Part.same]

/-- Raising an error is within the frame of any instruction whose write set names `ERR`. -/
theorem State.raise_unchangedExcept (e : Fault) {ps : List Part} (herr : Part.err ∈ ps) :
    unchangedExcept ps s (s.raise e) :=
  (s.raise_latchesOnly e).2.mono (by simpa using herr)

end writes

/-- A range access whose continuation writes only `ps` and `ERR` does so whether or not the range is in bounds. -/
theorem unchangedExcept_of_withRange {s t u : State} {n : Nat} {ps qs : List Part} (h : s.withRange n (.next u) = .next t)
    (hu : unchangedExcept ps s u) (hsub : ps ⊆ qs) (herr : Part.err ∈ qs) : unchangedExcept qs s t := by
  rcases State.withRange_next h with ⟨-, rfl⟩ | ⟨-, rfl⟩
  · exact hu.mono hsub
  · exact s.raise_unchangedExcept _ herr

/-! What a next state of each of the three other branching bodies can be. -/

section inversions

variable {s t : State}

theorem execRet_next (h : execRet s = .next t) :
    (s.sp = 0 ∧ t = s.raise (.stackUnderflow s.pc0)) ∨
      ∃ k : Reg, k.val + 1 = s.sp.toNat ∧ t = (s.setSp (s.sp - 1)).setPc (s.stackAt k) := by
  rcases execRet_cases s with ⟨hsp, hr⟩ | ⟨k, hk, hr⟩ | ⟨-, hr⟩ <;> cases hr.symm.trans h
  · exact .inl ⟨hsp, rfl⟩
  · exact .inr ⟨k, hk, rfl⟩

theorem execCallAddr_next {nnn : Addr12} (h : execCallAddr nnn s = .next t) :
    (s.sp = 16 ∧ t = s.raise (.stackOverflow s.pc0)) ∨
      ∃ k : Reg, k.val = s.sp.toNat ∧ t = ((s.setStack k s.pc).setSp (s.sp + 1)).setPc (zextAddr nnn) := by
  rcases execCallAddr_cases nnn s with ⟨hsp, hr⟩ | ⟨k, hk, hr⟩ | ⟨-, hr⟩ <;> cases hr.symm.trans h
  · exact .inl ⟨hsp, rfl⟩
  · exact .inr ⟨k, hk, rfl⟩

theorem execLdVxK_next {x : Reg} (h : execLdVxK x s = .next t) :
    (∃ k : Reg, s.firstKey = some k ∧ t = s.setV x (BitVec.ofNat 8 k.val)) ∨
      ((∀ k : Reg, s.keyDown k = false) ∧ t = s.setPc s.pc0) := by
  rcases execLdVxK_cases x s with ⟨k, hk, hr⟩ | ⟨hup, hr⟩ <;> cases hr.symm.trans h
  · exact .inl ⟨k, hk, rfl⟩
  · exact .inr ⟨hup, rfl⟩

end inversions

theorem execRet_unchangedExcept {s t : State} (h : execRet s = .next t) : unchangedExcept [.sp, .pc, .err] s t := by
  rcases execRet_next h with ⟨-, rfl⟩ | ⟨k, -, rfl⟩
  · exact s.raise_unchangedExcept _ (by simp)
  · exact ((s.setSp_unchangedExcept _).trans (State.setPc_unchangedExcept _ _)).mono (by simp)

theorem execCallAddr_unchangedExcept {nnn : Addr12} {s t : State} (h : execCallAddr nnn s = .next t) :
    unchangedExcept [.sp, .stack, .pc, .err] s t := by
  rcases execCallAddr_next h with ⟨-, rfl⟩ | ⟨k, -, rfl⟩
  · exact s.raise_unchangedExcept _ (by simp)
  · exact (((s.setStack_unchangedExcept k _).trans (State.setSp_unchangedExcept _ _)).trans
      (State.setPc_unchangedExcept _ _)).mono (by simp)

theorem execLdVxK_unchangedExcept {x : Reg} {s t : State} (h : execLdVxK x s = .next t) :
    unchangedExcept [.regs, .pc] s t := by
  rcases execLdVxK_next h with ⟨k, -, rfl⟩ | ⟨-, rfl⟩
  · exact (s.setV_unchangedExcept x _).mono (by simp)
  · exact (s.setPc_unchangedExcept _).mono (by simp)

/-- Each body is a few single writes, and its frame is theirs. -/
theorem exec_unchangedExcept {i : Instr} {s t : State} (h : exec i s = .next t) :
    unchangedExcept (writeSet i) s t := by
  cases i with
  | cls => cases h; exact s.setFb_unchangedExcept _
  | ret => exact execRet_unchangedExcept h
  | jpAddr | jpV0Addr => cases h; exact s.setPc_unchangedExcept _
  | callAddr => exact execCallAddr_unchangedExcept h
  | seVxByte | sneVxByte | seVxVy | sneVxVy | skpVx | sknpVx => cases h; exact s.skipIf_unchangedExcept _
  | ldVxByte | addVxByte | ldVxVy | orVxVy | andVxVy | xorVxVy | ldVxDt => cases h; exact s.setV_unchangedExcept _ _
  | addVxVy | subVxVy | shrVxVy | subnVxVy | shlVxVy => cases h; exact s.setVWithFlag_unchangedExcept _ _ _
  | rndVxByte => cases h; exact (s.setV_unchangedExcept _ _).trans (State.countDraw_unchangedExcept _)
  | drwVxVyNibble =>
    exact unchangedExcept_of_withRange h ((s.setFb_unchangedExcept _).trans (State.setFlag_unchangedExcept _ _))
      (by simp [writeSet]) (by simp [writeSet])
  | ldVxK => exact execLdVxK_unchangedExcept h
  | ldDtVx => cases h; exact s.setDt_unchangedExcept _
  | ldStVx => cases h; exact s.setSt_unchangedExcept _
  | ldIAddr | ldFVx => cases h; exact s.setI_unchangedExcept _
  | addIVx => cases h; exact s.setI_setFlag_unchangedExcept _ _
  | ldBVx =>
    exact unchangedExcept_of_withRange h (s.setMem_unchangedExcept _) (by simp [writeSet]) (by simp [writeSet])
  | ldMemVx =>
    exact unchangedExcept_of_withRange h ((s.setMem_unchangedExcept _).trans (State.setI_unchangedExcept _ _))
      (by simp [writeSet]) (by simp [writeSet])
  | ldVxMem =>
    exact unchangedExcept_of_withRange h ((s.setVs_unchangedExcept _).trans (State.setI_unchangedExcept _ _))
      (by simp [writeSet]) (by simp [writeSet])

/-- Settles O46: `exec_unchangedExcept`. -/
theorem instructionsWriteOnlyTheirSet : Obligations.InstructionsWriteOnlyTheirSet := by
  unfold Obligations.InstructionsWriteOnlyTheirSet
  exact fun i s t h => exec_unchangedExcept h

/-! The registers, one by one (10_state.md R22, R44). -/

/-- The register that a load takes from memory, and every register above VX. -/
theorem State.loadRegs_reg (s : State) (x r : Reg) :
    (loadRegs s.mem s.i.toNat (x.val + 1) s.v)[r] = if r ≤ x then s.byteAt (s.i.toNat + r.val) else s.reg r := by
  simp only [loadRegs_getElem, Nat.lt_succ_iff, Fin.le_def, State.byteAt, State.reg]

/-- Settles O47: the frame where no register is written, and the register written by each of the others. -/
theorem otherRegistersAreUnchanged : Obligations.OtherRegistersAreUnchanged := by
  unfold Obligations.OtherRegistersAreUnchanged
  intro i s t r h hr
  have hframe := exec_unchangedExcept h
  cases i with
  | ldVxByte | addVxByte | ldVxVy | orVxVy | andVxVy | xorVxVy | ldVxDt | rndVxByte =>
    cases h
    have hne : r ≠ _ := beq_eq_false_iff_ne.1 hr
    simp [hne]
  | addVxVy | subVxVy | shrVxVy | subnVxVy | shlVxVy =>
    cases h
    obtain ⟨hx, hvf⟩ := Bool.or_eq_false_iff.1 hr
    have hne : r ≠ _ := beq_eq_false_iff_ne.1 hx
    have hnevf : r ≠ vf := beq_eq_false_iff_ne.1 hvf
    simp [hne, hnevf]
  | addIVx =>
    cases h
    have hnevf : r ≠ vf := beq_eq_false_iff_ne.1 hr
    simp [hnevf]
  | drwVxVyNibble =>
    have hnevf : r ≠ vf := beq_eq_false_iff_ne.1 hr
    rcases State.withRange_next h with ⟨-, rfl⟩ | ⟨-, rfl⟩
    · rw [State.setFlag_reg, if_neg hnevf, State.setFb_reg]
    · rfl
  | ldVxK x =>
    have hne : r ≠ x := beq_eq_false_iff_ne.1 hr
    rcases execLdVxK_next h with ⟨k, -, rfl⟩ | ⟨-, rfl⟩
    · rw [State.setV_reg, if_neg hne]
    · rfl
  | ldVxMem x =>
    have habove : ¬ r ≤ x := of_decide_eq_false hr
    rcases State.withRange_next h with ⟨-, rfl⟩ | ⟨-, rfl⟩
    · exact (s.loadRegs_reg x r).trans (if_neg habove)
    · rfl
  | _ => exact hframe .regs (by simp [writeSet]) r

end Sys2Proof.Machine

/-! Memory, and the errors an instruction's body raises. -/

namespace Sys2Proof.Machine

/-! Memory: what the two storing instructions do to it (20_memory.md R64, R66). -/

theorem add_le_memSize_of_inBounds {a n : Nat} (h : inBounds a (n + 1) = true) : a + (n + 1) ≤ Config.memSize :=
  ((inBounds_iff a (n + 1)).1 h).resolve_left n.succ_ne_zero

/-- An instruction leaves memory as it is, or stores bytes from `MEM[I]` up that end inside memory. -/
theorem exec_mem_cases {i : Instr} {s t : State} (h : exec i s = .next t) :
    t.mem = s.mem ∨ ∃ bs : List Byte, bs.length = storedBytes i ∧ s.i.toNat + bs.length ≤ Config.memSize ∧
      t.mem = Memory.writeBytes s.mem s.i.toNat bs := by
  cases i with
  | ldBVx x =>
    rcases State.withRange_next h with ⟨hin, rfl⟩ | ⟨-, rfl⟩
    · exact .inr ⟨bcdDigits (s.reg x), rfl, add_le_memSize_of_inBounds hin, rfl⟩
    · exact .inl rfl
  | ldMemVx x =>
    rcases State.withRange_next h with ⟨hin, rfl⟩ | ⟨-, rfl⟩
    · exact .inr ⟨s.regsUpTo x, s.regsUpTo_length x, by simpa using add_le_memSize_of_inBounds hin, rfl⟩
    · exact .inl rfl
  | drwVxVyNibble | ldVxMem => rcases State.withRange_next h with ⟨-, rfl⟩ | ⟨-, rfl⟩ <;> exact .inl rfl
  | ret => rcases execRet_next h with ⟨-, rfl⟩ | ⟨k, -, rfl⟩ <;> exact .inl rfl
  | callAddr => rcases execCallAddr_next h with ⟨-, rfl⟩ | ⟨k, -, rfl⟩ <;> exact .inl rfl
  | ldVxK => rcases execLdVxK_next h with ⟨k, -, rfl⟩ | ⟨-, rfl⟩ <;> exact .inl rfl
  | seVxByte | sneVxByte | seVxVy | sneVxVy | skpVx | sknpVx => cases h; exact .inl (s.skipIf_mem _)
  | _ => cases h; exact .inl rfl

/-- Settles O48: bytes stored from `MEM[I]` up leave every byte outside their range. -/
theorem otherBytesAreUnchanged : Obligations.OtherBytesAreUnchanged := by
  unfold Obligations.OtherBytesAreUnchanged
  intro i s t a h ha
  rcases exec_mem_cases h with hm | ⟨bs, hlen, -, hm⟩ <;> rw [State.byteAt, hm]
  · rfl
  · exact read_writeBytes_outside bs s.mem s.i.toNat a (hlen.symm ▸ ha)

theorem exec_mem_wf {i : Instr} {s t : State} (h : exec i s = .next t) (hs : Memory.wf s.mem) : Memory.wf t.mem := by
  rcases exec_mem_cases h with hm | ⟨bs, -, hin, hm⟩ <;> rw [hm]
  · exact hs
  · exact wf_writeBytes bs s.mem s.i.toNat hin hs

/-! The errors (60_exceptions.md R261): which instruction raises which, and where. -/

/-- Instruction `i` run in state `s` raises `e`. -/
inductive Raises (s : State) : Instr → Fault → Prop
  | stackUnderflow (hsp : s.sp = 0) : Raises s .ret (.stackUnderflow s.pc0)
  | stackOverflow (nnn : Addr12) (hsp : s.sp = 16) : Raises s (.callAddr nnn) (.stackOverflow s.pc0)
  | sprite (x y : Reg) (n : Nat) (hout : inBounds s.i.toNat n = false) :
      Raises s (.drwVxVyNibble x y n) (.memoryOutOfBounds s.pc0 s.i)
  | digits (x : Reg) (hout : inBounds s.i.toNat 3 = false) : Raises s (.ldBVx x) (.memoryOutOfBounds s.pc0 s.i)
  | dump (x : Reg) (hout : inBounds s.i.toNat (x.val + 1) = false) :
      Raises s (.ldMemVx x) (.memoryOutOfBounds s.pc0 s.i)
  | load (x : Reg) (hout : inBounds s.i.toNat (x.val + 1) = false) :
      Raises s (.ldVxMem x) (.memoryOutOfBounds s.pc0 s.i)

theorem withRange_raises_or_keeps_err {i : Instr} {s t u : State} {n : Nat} (h : s.withRange n (.next u) = .next t)
    (hu : u.err = s.err) (hraises : inBounds s.i.toNat n = false → Raises s i (.memoryOutOfBounds s.pc0 s.i)) :
    (∃ e, Raises s i e ∧ t = s.raise e) ∨ t.err = s.err := by
  rcases State.withRange_next h with ⟨-, rfl⟩ | ⟨hout, rfl⟩
  · exact .inr hu
  · exact .inl ⟨_, hraises hout, rfl⟩

/-- A body raises one of these errors and does nothing else, or it leaves `ERR` alone. -/
theorem exec_raises_or_keeps_err {i : Instr} {s t : State} (h : exec i s = .next t) :
    (∃ e, Raises s i e ∧ t = s.raise e) ∨ t.err = s.err := by
  have hframe := exec_unchangedExcept h
  cases i with
  | ret =>
    rcases execRet_next h with ⟨hsp, rfl⟩ | ⟨k, -, rfl⟩
    · exact .inl ⟨_, .stackUnderflow hsp, rfl⟩
    · exact .inr rfl
  | callAddr nnn =>
    rcases execCallAddr_next h with ⟨hsp, rfl⟩ | ⟨k, -, rfl⟩
    · exact .inl ⟨_, .stackOverflow nnn hsp, rfl⟩
    · exact .inr rfl
  | drwVxVyNibble x y n => exact withRange_raises_or_keeps_err h rfl (.sprite x y n)
  | ldBVx x => exact withRange_raises_or_keeps_err h rfl (.digits x)
  | ldMemVx x => exact withRange_raises_or_keeps_err h rfl (.dump x)
  | ldVxMem x => exact withRange_raises_or_keeps_err h rfl (.load x)
  | _ => exact .inr (hframe .err (by simp [writeSet]))

/-- An error latched where none was before was raised by this instruction, which did nothing else. -/
theorem exec_raises_of_err {i : Instr} {s t : State} {e : Fault} (hs : s.err = none) (h : exec i s = .next t)
    (ht : t.err = some e) : Raises s i e ∧ t = s.raise e := by
  rcases exec_raises_or_keeps_err h with ⟨e', he', rfl⟩ | hkept
  · cases ht
    exact ⟨he', rfl⟩
  · rw [hkept, hs] at ht
    cases ht

/-- Settles O11: the state after a raise is the state before with `ERR` latched. -/
theorem raisedErrorsArePrecise : Obligations.RaisedErrorsArePrecise := by
  unfold Obligations.RaisedErrorsArePrecise
  intro i s t hs h ht
  obtain ⟨e, he⟩ := Option.ne_none_iff_exists'.1 ht
  obtain ⟨-, rfl⟩ := exec_raises_of_err hs h he
  exact s.raise_unchangedExcept e (by simp)

/-- A range out of bounds is not empty, and its last address exceeds 0xFFF. -/
theorem inBounds_eq_false_iff {a n : Nat} : inBounds a n = false ↔ 0 < n ∧ 0xFFF < a + n - 1 := by
  rw [← Bool.not_eq_true, inBounds_iff, Config.memSize_eq]
  omega

/-- Settles O12: the rows of `Raises`, their ranges as numbers. -/
theorem onlyTheListedConditionsRaise : Obligations.OnlyTheListedConditionsRaise := by
  unfold Obligations.OnlyTheListedConditionsRaise
  intro i s t e hs h ht
  obtain ⟨hraises, -⟩ := exec_raises_of_err hs h ht
  cases hraises with
  | stackOverflow nnn hsp => exact .inl ⟨nnn, rfl, hsp, rfl⟩
  | stackUnderflow hsp => exact .inr (.inl ⟨rfl, hsp, rfl⟩)
  | sprite x y n hout =>
    obtain ⟨hpos, hover⟩ := inBounds_eq_false_iff.1 hout
    exact .inr (.inr (.inl ⟨x, y, n, rfl, hpos, hover, rfl⟩))
  | digits x hout =>
    obtain ⟨-, hover⟩ := inBounds_eq_false_iff.1 hout
    exact .inr (.inr (.inr (.inl ⟨x, rfl, hover, rfl⟩)))
  | dump x hout =>
    obtain ⟨-, hover⟩ := inBounds_eq_false_iff.1 hout
    exact .inr (.inr (.inr (.inr ⟨x, .inl rfl, hover, rfl⟩)))
  | load x hout =>
    obtain ⟨-, hover⟩ := inBounds_eq_false_iff.1 hout
    exact .inr (.inr (.inr (.inr ⟨x, .inr rfl, hover, rfl⟩)))

/-! Flags (10_state.md R22). -/

theorem flagByte_eq_zero_or_one (f : Bool) : flagByte f = 0 ∨ flagByte f = 1 := by
  cases f
  · exact .inl rfl
  · exact .inr rfl

theorem State.setFlag_reg_vf (s : State) (f : Bool) : (s.setFlag f).reg vf = 0 ∨ (s.setFlag f).reg vf = 1 := by
  rw [State.setFlag_reg, if_pos rfl]
  exact flagByte_eq_zero_or_one f

/-- Settles O30: VF is written last by each of the seven. -/
theorem flagWritersLeaveZeroOrOne : Obligations.FlagWritersLeaveZeroOrOne := by
  unfold Obligations.FlagWritersLeaveZeroOrOne
  intro i s t hi hs h ht
  cases i with
  | addVxVy | subVxVy | subnVxVy | shrVxVy | shlVxVy | addIVx => cases h; exact State.setFlag_reg_vf _ _
  | drwVxVyNibble =>
    rcases State.withRange_next h with ⟨-, rfl⟩ | ⟨-, rfl⟩
    · exact State.setFlag_reg_vf _ _
    · cases ht
  | _ => cases hi

end Sys2Proof.Machine

/-! The bodies that branch, by the branch taken. -/

namespace Sys2Proof.Machine

section branches

variable {s : State}

theorem execRet_of_empty (hsp : s.sp = 0) : execRet s = .next (s.raise (.stackUnderflow s.pc0)) := if_pos hsp

theorem execRet_of_top {k : Reg} (hk : k.val + 1 = s.sp.toNat) :
    execRet s = .next ((s.setSp (s.sp - 1)).setPc (s.stackAt k)) := by
  have hsp : s.sp ≠ 0 := fun h => by simp [h] at hk
  simp only [execRet, if_neg hsp, State.topCell_eq_some.2 hk]

theorem execCallAddr_of_full (nnn : Addr12) (hsp : s.sp = 16) :
    execCallAddr nnn s = .next (s.raise (.stackOverflow s.pc0)) := if_pos hsp

theorem execCallAddr_of_free (nnn : Addr12) {k : Reg} (hk : k.val = s.sp.toNat) :
    execCallAddr nnn s = .next (((s.setStack k s.pc).setSp (s.sp + 1)).setPc (zextAddr nnn)) := by
  have hsp : s.sp ≠ 16 := fun h => by simp [h] at hk; omega
  simp only [execCallAddr, if_neg hsp, State.freeCell_eq_some.2 hk]

theorem execLdVxK_of_firstKey (x : Reg) {k : Reg} (hk : s.firstKey = some k) :
    execLdVxK x s = .next (s.setV x (BitVec.ofNat 8 k.val)) := by
  simp only [execLdVxK, hk]

theorem execLdVxK_of_noKey (x : Reg) (hk : ∀ k : Reg, s.keyDown k = false) :
    execLdVxK x s = .next (s.setPc s.pc0) := by
  simp only [execLdVxK, State.firstKey_eq_none.2 hk]

theorem State.withRange_of_inBounds {n : Nat} {k : Out} (h : inBounds s.i.toNat n = true) : s.withRange n k = k :=
  if_pos h

theorem State.withRange_of_outside {n : Nat} {k : Out} (h : inBounds s.i.toNat n = false) :
    s.withRange n k = .next (s.raise (.memoryOutOfBounds s.pc0 s.i)) :=
  if_neg (Bool.eq_false_iff.1 h)

/-! The stack pointer as a count (10_state.md R29). -/

theorem State.sp_sub_one_toNat {n : Nat} (h : n + 1 = s.sp.toNat) : (s.sp - 1).toNat = n := by
  rw [BitVec.toNat_sub_of_le] <;> simp [BitVec.le_def] <;> omega

theorem State.sp_add_one_toNat {n : Nat} (h : n = s.sp.toNat) (hn : n < 16) : (s.sp + 1).toNat = n + 1 := by
  rw [BitVec.toNat_add_of_lt] <;> simp <;> omega

end branches

/-- Settles O14: the top cell is the one below `SP`. -/
theorem returnPopsTheStack : Obligations.ReturnPopsTheStack := by
  unfold Obligations.ReturnPopsTheStack
  refine ⟨by decide, fun s => ⟨fun hsp => ⟨_, execRet_of_empty hsp, s.raise_latchesOnly _⟩, fun k hk => ?_⟩⟩
  exact ⟨_, execRet_of_top hk.symm, State.sp_sub_one_toNat hk.symm, rfl,
    (s.setSp_unchangedExcept _).trans (State.setPc_unchangedExcept _ _)⟩

/-- Settles O15: the free cell is the one `SP` names. -/
theorem callPushesTheReturnAddress : Obligations.CallPushesTheReturnAddress := by
  unfold Obligations.CallPushesTheReturnAddress
  intro nnn s
  refine ⟨decodeWord_callAddr nnn, fun hsp => ⟨_, execCallAddr_of_full nnn hsp, s.raise_latchesOnly _⟩, fun k hk => ?_⟩
  exact ⟨_, execCallAddr_of_free nnn hk.symm, fun c => s.setStack_stackAt k c s.pc,
    State.sp_add_one_toNat hk.symm k.isLt, zextAddr_toNat nnn,
    ((s.setStack_unchangedExcept k _).trans (State.setSp_unchangedExcept _ _)).trans (State.setPc_unchangedExcept _ _)⟩

/-- Settles O19: the cell `RET` pops is the one `CALL` pushed. -/
theorem returnUndoesCall : Obligations.ReturnUndoesCall := by
  unfold Obligations.ReturnUndoesCall
  intro nnn s t u hlt h husp hustack
  have hcall := execCallAddr_of_free (s := s) nnn (k := ⟨s.sp.toNat, hlt⟩) rfl
  cases hcall.symm.trans h
  have husp' : u.sp = s.sp + 1 := husp
  have htop : s.sp.toNat + 1 = u.sp.toNat := by rw [husp', State.sp_add_one_toNat rfl hlt]
  refine ⟨_, execRet_of_top (k := ⟨s.sp.toNat, hlt⟩) htop, ?pc, ?sp⟩
  case pc =>
    rw [State.setPc_pc, hustack]
    simp
  case sp =>
    rw [State.setPc_sp, State.setSp_sp, husp', BitVec.add_sub_cancel]

theorem State.shiftOperand_of_quirk {s : State} (hq : s.q.shift = true) (x y : Reg) : s.shiftOperand x y = s.reg x :=
  if_pos hq

/-- Settles O28: under `Q.shift` the operand is `V[X]`. -/
theorem shiftInPlaceIgnoresY : Obligations.ShiftInPlaceIgnoresY := by
  unfold Obligations.ShiftInPlaceIgnoresY
  intro x y z s hq
  simp only [exec, execShrVxVy, execShlVxVy, State.shiftOperand_of_quirk hq, and_self]

/-- Settles O29: the byte drawn is a free value; masking clears every bit outside `NN`. -/
theorem randomByteIsMasked : Obligations.RandomByteIsMasked := by
  unfold Obligations.RandomByteIsMasked
  intro x nn s
  refine ⟨decodeWord_rndVxByte x nn, _, rfl, fun r => State.setV_reg s x r _, ?masked, rfl,
    (s.setV_unchangedExcept x _).trans (State.countDraw_unchangedExcept _)⟩
  case masked =>
    rw [State.countDraw_reg, State.setV_reg, if_pos rfl, BitVec.and_assoc, BitVec.and_not_self]
    exact BitVec.and_zero

/-- Settles O43: `firstKey` is the smallest pressed key. -/
theorem keyWaitTakesTheSmallestKey : Obligations.KeyWaitTakesTheSmallestKey := by
  unfold Obligations.KeyWaitTakesTheSmallestKey
  intro x s
  refine ⟨decodeWord_groupF x 0x0A, fun hup => ?_, fun k hk hsmallest => ?_⟩
  · exact ⟨_, execLdVxK_of_noKey x hup, rfl, s.setPc_unchangedExcept _⟩
  · exact completes_of_exec_setV (execLdVxK_of_firstKey x (State.firstKey_eq_some.2 ⟨hk, hsmallest⟩))

/-! The draw counter, which `RND` alone reads (10_state.md R38). -/

theorem State.skipIf_withDraws (s : State) (n : Nat) (c : Bool) :
    State.skipIf { s with draws := n } c = { s.skipIf c with draws := n } := by
  cases c <;> rfl

/-- A range access whose continuation does the same at another draw counter does so itself. -/
theorem State.withRange_withDraws {s t u : State} {k n : Nat} (h : s.withRange k (.next u) = .next t) :
    State.withRange { s with draws := n } k (.next { u with draws := n }) = .next { t with draws := n } := by
  rcases State.withRange_next h with ⟨hin, rfl⟩ | ⟨hout, rfl⟩
  · exact State.withRange_of_inBounds hin
  · exact State.withRange_of_outside hout

/-- Settles O49: no body but that of `RND` mentions the counter, and each branch is taken on other parts. -/
theorem onlyRandomReadsTheSource : Obligations.OnlyRandomReadsTheSource := by
  unfold Obligations.OnlyRandomReadsTheSource
  intro i s t n hi h
  cases i with
  | rndVxByte x nn => exact absurd rfl (hi x nn)
  | ret =>
    rcases execRet_next h with ⟨hsp, rfl⟩ | ⟨k, hk, rfl⟩
    · exact execRet_of_empty hsp
    · exact execRet_of_top hk
  | callAddr nnn =>
    rcases execCallAddr_next h with ⟨hsp, rfl⟩ | ⟨k, hk, rfl⟩
    · exact execCallAddr_of_full nnn hsp
    · exact execCallAddr_of_free nnn hk
  | ldVxK x =>
    rcases execLdVxK_next h with ⟨k, hk, rfl⟩ | ⟨hup, rfl⟩
    · exact execLdVxK_of_firstKey x hk
    · exact execLdVxK_of_noKey x hup
  | seVxByte | sneVxByte | seVxVy | sneVxVy | skpVx | sknpVx =>
    cases h
    exact congrArg Host.Outcome.next (s.skipIf_withDraws n _)
  | drwVxVyNibble | ldBVx | ldMemVx | ldVxMem => exact State.withRange_withDraws h
  | _ => cases h; rfl

end Sys2Proof.Machine

/-! The step (46_host_operations.md R232). -/

namespace Sys2Proof.Machine

/-- A body answers a next state, or it is refused because `SP` is no count (10_state.md R29). -/
theorem exec_next_or_refused (i : Instr) (s : State) :
    (∃ t, exec i s = .next t) ∨ (16 < s.sp.toNat ∧ ∃ r, exec i s = .refused r) := by
  have hrange : ∀ (n : Nat) (u : State), ∃ t, s.withRange n (.next u) = .next t := by
    intro n u
    rcases s.withRange_cases n (.next u) with ⟨-, hr⟩ | ⟨-, hr⟩ <;> exact ⟨_, hr⟩
  cases i with
  | ret =>
    rcases execRet_cases s with ⟨-, hr⟩ | ⟨k, -, hr⟩ | ⟨hsp, hr⟩
    · exact .inl ⟨_, hr⟩
    · exact .inl ⟨_, hr⟩
    · exact .inr ⟨hsp, _, hr⟩
  | callAddr nnn =>
    rcases execCallAddr_cases nnn s with ⟨-, hr⟩ | ⟨k, -, hr⟩ | ⟨hsp, hr⟩
    · exact .inl ⟨_, hr⟩
    · exact .inl ⟨_, hr⟩
    · exact .inr ⟨hsp, _, hr⟩
  | ldVxK x => rcases execLdVxK_cases x s with ⟨k, -, hr⟩ | ⟨-, hr⟩ <;> exact .inl ⟨_, hr⟩
  | drwVxVyNibble | ldBVx | ldMemVx | ldVxMem => exact .inl (hrange _ _)
  | _ => exact .inl ⟨_, rfl⟩

/-- With `SP` a count and no error latched, every step answers a next state. -/
theorem step_next_of_sp_le {s : State} (hsp : s.sp.toNat ≤ 16) (he : s.err = none) : ∃ t, step s = .next t := by
  rcases step_cases s with ⟨e, hse, -⟩ | ⟨-, -, hstep⟩ | ⟨w, g, -, -, -, -, hstep⟩ | ⟨w, i, -, -, -, -, hstep⟩
  · rw [he] at hse; cases hse
  · exact ⟨_, hstep⟩
  · exact ⟨_, hstep⟩
  · rcases exec_next_or_refused i s.advance with ⟨t, ht⟩ | ⟨hlt, -⟩
    · exact ⟨t, hstep.trans ht⟩
    · exact absurd hsp (Nat.not_le.2 hlt)

theorem step_of_err {s : State} {e : Fault} (he : s.err = some e) : step s = .fault e := by
  simp only [step, he]

/-- A step that answers a next state found no error latched. -/
theorem err_eq_none_of_step {s t : State} (h : step s = .next t) : s.err = none := by
  cases he : s.err with
  | none => rfl
  | some e => rw [step_of_err he] at h; cases h

/-- Settles O13: the invariant keeps `SP` a count. -/
theorem safeStepIsNeverRefused : Obligations.SafeStepIsNeverRefused := by
  unfold Obligations.SafeStepIsNeverRefused
  rintro s ⟨-, hsp, -, -⟩
  cases he : s.err with
  | none =>
    obtain ⟨t, ht⟩ := step_next_of_sp_le hsp he
    rw [ht]
    exact ⟨fun r hr => (nomatch hr), fun e hf => (nomatch hf)⟩
  | some e =>
    rw [step_of_err he]
    exact ⟨fun r hr => (nomatch hr), fun e' hf => congrArg some (Host.Outcome.fault.inj hf)⟩

theorem wordOfBytes_toNat (hi lo : Byte) : (wordOfBytes hi lo).toNat = hi.toNat * 256 + lo.toNat := by
  rw [wordOfBytes, BitVec.toNat_append, Nat.shiftLeft_eq, Nat.mul_comm, ← Nat.two_pow_add_eq_or_of_lt lo.isLt,
    Nat.mul_comm]

theorem State.advance_unchangedExcept (s : State) : unchangedExcept [.pc] s s.advance :=
  s.setPc_unchangedExcept _

/-- Settles O7: the two bytes at `PC` make the word that is fetched. -/
theorem stepRunsTheDecodedInstruction : Obligations.StepRunsTheDecodedInstruction := by
  unfold Obligations.StepRunsTheDecodedInstruction
  intro s i rest he hpc hdec
  obtain ⟨hword, -⟩ := decodeBytes_eq_ok_iff.1 hdec
  have hfetch := s.fetch_eq_some (Nat.succ_le_succ hpc)
  exact ⟨step_eq_exec he hfetch hword, s.advance_pc, s.advance_unchangedExcept⟩

/-- Settles O8: the fetch needs `PC` and `PC + 1` in memory. -/
theorem fetchIsBoundedAndBigEndian : Obligations.FetchIsBoundedAndBigEndian := by
  unfold Obligations.FetchIsBoundedAndBigEndian
  intro s he
  refine ⟨fun hout => ⟨s.raise (.fetchOutOfBounds s.pc), ?_, s.raise_latchesOnly _⟩, fun hin => ?_⟩
  · simp only [step, he, s.fetch_eq_none (Nat.lt_succ_of_le hout)]
  · exact ⟨_, s.fetch_eq_some (Nat.succ_le_succ hin), wordOfBytes_toNat _ _⟩

/-- Settles O9: the word is rejected after `PC` was advanced. -/
theorem illegalWordRaises : Obligations.IllegalWordRaises := by
  unfold Obligations.IllegalWordRaises
  refine ⟨by decide, fun s w g he hfetch hdec => ⟨s.advance.raise (.illegalOpcode s.pc w), ?_, rfl, rfl, ?_⟩⟩
  · simp only [step, he, hfetch, hdec]
  · exact s.advance_unchangedExcept.trans (s.advance.raise_latchesOnly _).2

/-- Putting `PC` back undoes the advance. -/
theorem State.advance_setPc (s : State) : s.advance.setPc s.pc = s := rfl

theorem State.advance_pc0 (s : State) : s.advance.pc0 = s.pc :=
  BitVec.add_sub_cancel s.pc 2

/-- Settles O20: the jump puts `PC` back where it was. -/
theorem parkedJumpChangesNothing : Obligations.ParkedJumpChangesNothing := by
  unfold Obligations.ParkedJumpChangesNothing
  intro s nnn he hpc hfetch
  have htarget : zextAddr nnn = s.pc := BitVec.eq_of_toNat_eq ((zextAddr_toNat nnn).trans hpc)
  rw [step_eq_exec he hfetch (decodeWord_jpAddr nnn), exec, execJpAddr, htarget, s.advance_setPc]

/-! The invariant (10_state.md R26, R29; 40_control_flow.md R122). -/

section invariant

variable {i : Instr} {s t : State}

theorem exec_sp_le (h : exec i s = .next t) (hs : s.sp.toNat ≤ 16) : t.sp.toNat ≤ 16 := by
  have hframe := exec_unchangedExcept h
  cases i with
  | ret =>
    rcases execRet_next h with ⟨-, rfl⟩ | ⟨k, hk, rfl⟩
    · exact hs
    · exact (State.sp_sub_one_toNat hk).trans_le k.isLt.le
  | callAddr nnn =>
    rcases execCallAddr_next h with ⟨-, rfl⟩ | ⟨k, hk, rfl⟩
    · exact hs
    · exact (State.sp_add_one_toNat hk k.isLt).trans_le k.isLt
  | _ =>
    have hsp : t.sp = s.sp := hframe .sp (by simp [writeSet])
    rwa [hsp]

/-- `CALL` alone writes the stack, and pushes `PC`. -/
theorem exec_stackAt_le (h : exec i s = .next t) (hpc : s.pc.toNat ≤ 0x1000)
    (hs : ∀ k : Reg, (s.stackAt k).toNat ≤ 0x1000) : ∀ k : Reg, (t.stackAt k).toNat ≤ 0x1000 := by
  intro c
  have hframe := exec_unchangedExcept h
  cases i with
  | callAddr nnn =>
    rcases execCallAddr_next h with ⟨-, rfl⟩ | ⟨k, -, rfl⟩
    · exact hs c
    · rw [State.setPc_stackAt, State.setSp_stackAt, State.setStack_stackAt]
      split
      · exact hpc
      · exact hs c
  | _ =>
    have hstack : t.stackAt c = s.stackAt c := hframe .stack (by simp [writeSet]) c
    rw [hstack]
    exact hs c

theorem zextAddr_toNat_le (nnn : Addr12) : (zextAddr nnn).toNat ≤ 0x10FE := by
  have hlt := nnn.isLt
  rw [zextAddr_toNat]
  omega

theorem word_add_two_toNat {w : Word} (hw : w.toNat ≤ 0x1000) : (w + 2).toNat = w.toNat + 2 := by
  have hfits : w.toNat + (2 : Word).toNat < 2 ^ 16 := by simp; omega
  rw [BitVec.toNat_add_of_lt hfits]
  rfl

theorem State.skipIf_pc_le (hpc : s.pc.toNat ≤ 0x1000) (c : Bool) : (s.skipIf c).pc.toNat ≤ 0x10FE := by
  rw [State.skipIf_pc]
  split
  · rw [word_add_two_toNat hpc]; omega
  · omega

theorem State.pc0_toNat_le (hpc : 2 ≤ s.pc.toNat) : s.pc0.toNat ≤ s.pc.toNat := by
  rw [State.pc0, BitVec.toNat_sub_of_le (by simpa [BitVec.le_def] using hpc)]
  exact Nat.sub_le _ _

/-- From an advanced `PC` every target is a return address, an address of 12 bits with a byte added, or near `PC`. -/
theorem exec_pc_le (h : exec i s = .next t) (hlow : 2 ≤ s.pc.toNat) (hhigh : s.pc.toNat ≤ 0x1000)
    (hstack : ∀ k : Reg, (s.stackAt k).toNat ≤ 0x1000) : t.pc.toNat ≤ 0x10FE := by
  have hframe := exec_unchangedExcept h
  have hkept : s.pc.toNat ≤ 0x10FE := hhigh.trans (by decide)
  cases i with
  | ret =>
    rcases execRet_next h with ⟨-, rfl⟩ | ⟨k, -, rfl⟩
    · exact hkept
    · exact (hstack k).trans (by decide)
  | callAddr nnn =>
    rcases execCallAddr_next h with ⟨-, rfl⟩ | ⟨k, -, rfl⟩
    · exact hkept
    · exact zextAddr_toNat_le nnn
  | jpAddr nnn => cases h; exact zextAddr_toNat_le nnn
  | jpV0Addr nnn =>
    cases h
    have hnnn := nnn.isLt
    have hoff := (s.jumpOffset nnn).isLt
    rw [State.setPc_pc, zextAddr_add_zextByte_toNat]
    omega
  | seVxByte | sneVxByte | seVxVy | sneVxVy | skpVx | sknpVx => cases h; exact State.skipIf_pc_le hhigh _
  | ldVxK x =>
    rcases execLdVxK_next h with ⟨k, -, rfl⟩ | ⟨-, rfl⟩
    · exact hkept
    · exact (State.pc0_toNat_le hlow).trans hkept
  | _ =>
    have hpc : t.pc = s.pc := hframe .pc (by simp [writeSet])
    rwa [hpc]

theorem State.advance_pc_toNat (hpc : s.pc.toNat + 1 ≤ 0xFFF) : s.advance.pc.toNat = s.pc.toNat + 2 :=
  word_add_two_toNat (by omega)

/-- The invariant says nothing of `ERR`. -/
theorem State.Inv.raise (hs : s.Inv) (e : Fault) : (s.raise e).Inv := hs

theorem State.Inv.advance (hs : s.Inv) (hpc : s.pc.toNat + 1 ≤ 0xFFF) : s.advance.Inv := by
  obtain ⟨hmem, hsp, -, hstack⟩ := hs
  refine ⟨hmem, hsp, ?_, hstack⟩
  rw [State.advance_pc_toNat hpc]
  omega

/-- A step keeps the invariant: `PC` moves past a word inside memory before the body runs. -/
theorem step_keeps_Inv (hs : s.Inv) (h : step s = .next t) : t.Inv := by
  rcases step_cases s with ⟨e, -, hstep⟩ | ⟨-, -, hstep⟩ | ⟨w, g, -, hpc, -, -, hstep⟩ | ⟨w, i, -, hpc, -, -, hstep⟩ <;>
    rw [hstep] at h
  · cases h
  · cases h; exact hs.raise _
  · cases h; exact (hs.advance hpc).raise _
  · have hadv : s.advance.pc.toNat = s.pc.toNat + 2 := State.advance_pc_toNat hpc
    have hlow : 2 ≤ s.advance.pc.toNat := by omega
    have hhigh : s.advance.pc.toNat ≤ 0x1000 := by omega
    obtain ⟨hmem, hsp, -, hstack⟩ := hs.advance hpc
    exact ⟨exec_mem_wf h hmem, exec_sp_le h hsp, exec_pc_le h hlow hhigh hstack, exec_stackAt_le h hhigh hstack⟩

end invariant

/-- Settles O50: `step_keeps_Inv`. -/
theorem stepKeepsTheInvariant : Obligations.StepKeepsTheInvariant := by
  unfold Obligations.StepKeepsTheInvariant
  exact fun s t hs h => step_keeps_Inv hs h

theorem reset_Inv : State.reset.Inv := by
  refine ⟨wf_reset, by decide, by decide, fun k => ?_⟩
  rw [State.reset_stackAt]
  decide

/-- Settles O51: `reset_Inv`. -/
theorem powerOnMeetsTheInvariant : Obligations.PowerOnMeetsTheInvariant := reset_Inv

/-! The host operations (46_host_operations.md R230). -/

/-- The host's step leaves the step's next state, or the state as it is when there is none. -/
theorem State.hostStep_cases (s : State) : step s = .next s.hostStep.1 ∨ s.hostStep.1 = s := by
  cases h : step s with
  | next t => exact .inl (by rw [State.hostStep_of_next h])
  | fault e => exact .inr (by simp only [State.hostStep, h])
  | refused r => exact .inr (by simp only [State.hostStep, h])

theorem loadProgram_keeps_Inv {s : State} (hs : s.Inv) (bytes : List Byte) :
    (hostOp (.loadProgram bytes) s).1.Inv := by
  obtain ⟨hmem, hrest⟩ := hs
  rcases Nat.lt_or_ge 3584 bytes.length with hlong | hfits
  · rw [hostOp_loadProgram_of_lt s hlong]
    exact ⟨hmem, hrest⟩
  · rw [hostOp_loadProgram_of_le s hfits]
    exact ⟨wf_writeBytes bytes s.mem 0x200 (Nat.add_le_add_left hfits 0x200) hmem, hrest⟩

theorem hostOp_keeps_Inv (op : HostOp) {s : State} (hs : s.Inv) : (hostOp op s).1.Inv := by
  cases op with
  | reset => exact reset_Inv
  | loadProgram bytes => exact loadProgram_keeps_Inv hs bytes
  | step =>
    rcases s.hostStep_cases with hnext | hsame
    · exact step_keeps_Inv hs hnext
    · exact hsame.symm ▸ hs
  | tickTimers | setKey | framebuffer | soundTimerActive | configureQuirks => exact hs

theorem hostRun_keeps_Inv (ops : List HostOp) {s : State} (hs : s.Inv) : (hostRun ops s).Inv := by
  induction ops generalizing s with
  | nil => exact hs
  | cons op ops ih => exact ih (hostOp_keeps_Inv op hs)

/-- Settles O52: by operation, and by induction on the sequence from power-on. -/
theorem everyHostRunKeepsTheInvariant : Obligations.EveryHostRunKeepsTheInvariant := by
  unfold Obligations.EveryHostRunKeepsTheInvariant
  exact ⟨fun op s hs => hostOp_keeps_Inv op hs, fun ops => hostRun_keeps_Inv ops reset_Inv⟩

end Sys2Proof.Machine

/-! The host's view of a step, of a latched error and of the timers (46_host_operations.md). -/

namespace Sys2Proof.Machine

/-- Settles O10: only `reset` writes `ERR` of a latched machine. -/
theorem errorLatchIsSticky : Obligations.ErrorLatchIsSticky := by
  unfold Obligations.ErrorLatchIsSticky
  intro s e he
  have hstep : hostOp .step s = (s, .status (.error e)) := by rw [hostOp, State.hostStep_of_err he]
  refine ⟨step_of_err he, hstep, fun op hop => ?kept, rfl⟩
  case kept =>
    cases op with
    | reset => exact absurd rfl hop
    | loadProgram bytes =>
      rcases Nat.lt_or_ge 3584 bytes.length with hlong | hfits
      · rw [hostOp_loadProgram_of_lt s hlong]; exact he
      · rw [hostOp_loadProgram_of_le s hfits]; exact he
    | step => rw [hstep]; exact he
    | tickTimers | setKey | framebuffer | soundTimerActive | configureQuirks => exact he

/-! A step that waits for a key (44_keypad_timers.md R212). -/

theorem decodeWord_eq_ldVxK_iff {w : Word} {x : Reg} :
    decodeWord w = .ok (.ldVxK x) ↔ w = formatXB 0xF x 0x0A := by
  have hwf : (Instr.ldVxK x).wellFormed = true := rfl
  rw [decodeWord_eq_ok_iff, encode, and_iff_left hwf, eq_comm]

/-- `blocked` in the terms of the rule: the word at `PC` is `LD Vx, K` and no key is down. -/
theorem State.blocked_iff {s : State} :
    s.blocked = true ↔
      s.err = none ∧ (∃ x : Reg, s.fetch = some (formatXB 0xF x 0x0A)) ∧ ∀ k : Reg, s.keyDown k = false := by
  unfold State.blocked
  constructor
  · intro h
    split at h
    case h_1 w he hf =>
      split at h
      case h_1 x hd =>
        rw [decodeWord_eq_ldVxK_iff.1 hd] at hf
        exact ⟨he, ⟨x, hf⟩, State.firstKey_eq_none.1 (Option.isNone_iff_eq_none.1 h)⟩
      case h_2 => cases h
    case h_2 => cases h
  · rintro ⟨he, ⟨x, hf⟩, hup⟩
    have hd := decodeWord_eq_ldVxK_iff.2 (rfl : formatXB 0xF x 0x0A = _)
    simp only [he, hf, hd, State.firstKey_eq_none.2 hup, Option.isNone_none]

/-- A blocked step puts `PC` back where it was. -/
theorem step_of_blocked {s : State} (h : s.blocked = true) : step s = .next s := by
  obtain ⟨he, ⟨x, hf⟩, hup⟩ := State.blocked_iff.1 h
  rw [step_eq_exec he hf (decodeWord_eq_ldVxK_iff.2 rfl), exec,
    execLdVxK_of_noKey (s := s.advance) x hup, s.advance_pc0, s.advance_setPc]

theorem stepStatus_eq_waitingForKey_iff {s t : State} :
    stepStatus s t = .waitingForKey ↔ t.err = none ∧ s.blocked = true := by
  cases ht : t.err with
  | none => simp [stepStatus_of_none ht]
  | some e => simp [stepStatus_of_err ht]

/-- The host's step answers `WaitingForKey` exactly when the machine is blocked. -/
theorem State.hostStep_eq_waitingForKey_iff {s : State} : s.hostStep.2 = .waitingForKey ↔ s.blocked = true := by
  constructor
  · intro h
    cases hstep : step s with
    | next t =>
      rw [State.hostStep_of_next hstep] at h
      exact (stepStatus_eq_waitingForKey_iff.1 h).2
    | fault e => simp [State.hostStep, hstep] at h
    | refused r => simp [State.hostStep, hstep] at h
  · intro h
    rw [State.hostStep_of_next (step_of_blocked h)]
    exact stepStatus_eq_waitingForKey_iff.2 ⟨(State.blocked_iff.1 h).1, h⟩

/-- Settles O44: `blocked` says it, and a blocked step leaves the state. -/
theorem waitingStepChangesNothing : Obligations.WaitingStepChangesNothing := by
  unfold Obligations.WaitingStepChangesNothing
  intro s
  refine ⟨State.hostStep_eq_waitingForKey_iff.trans State.blocked_iff, fun h => ?_⟩
  have hstep := step_of_blocked (State.hostStep_eq_waitingForKey_iff.1 h)
  exact ⟨hstep, by rw [State.hostStep_of_next hstep]⟩

theorem hostOp_step_of_next {s t : State} (h : step s = .next t) :
    hostOp .step s = (t, .status (stepStatus s t)) := by
  rw [hostOp, State.hostStep_of_next h]

/-- Settles O60: the status is the error latched, and with none latched what `blocked` says. -/
theorem hostStepAnswersWhatTheStepDid : Obligations.HostStepAnswersWhatTheStepDid := by
  unfold Obligations.HostStepAnswersWhatTheStepDid
  intro s t h
  rw [hostOp_step_of_next h]
  refine ⟨fun e ht => by rw [stepStatus_of_err ht], fun ht hwait => ?_, fun ht hgoes => ?_⟩
  · have hblocked := State.blocked_iff.2 ⟨err_eq_none_of_step h, hwait⟩
    rw [stepStatus_of_none ht, if_pos hblocked]
  · have hfree : ¬ s.blocked = true := fun hb => hgoes (State.blocked_iff.1 hb).2
    rw [stepStatus_of_none ht, if_neg hfree]

/-! The timers (46_host_operations.md R234). -/

theorem tickByte_toNat (b : Byte) : (tickByte b).toNat = b.toNat - 1 := by
  unfold tickByte
  split
  case isTrue hzero => rw [hzero]; rfl
  case isFalse hpos =>
    have hle : (1 : Byte) ≤ b := by
      have hne : b.toNat ≠ 0 := fun h => hpos (BitVec.eq_of_toNat_eq h)
      rw [BitVec.le_def]
      exact Nat.pos_of_ne_zero hne
    exact BitVec.toNat_sub_of_le hle

theorem State.tickTimers_unchangedExcept (s : State) : unchangedExcept [.dt, .st] s s.tickTimers :=
  (s.setDt_unchangedExcept _).trans (State.setSt_unchangedExcept _ _)

/-- Settles O56: each timer is written by `tickByte`. -/
theorem tickDecrementsBothTimers : Obligations.TickDecrementsBothTimers := by
  unfold Obligations.TickDecrementsBothTimers
  rintro s t rfl
  exact ⟨tickByte_toNat s.dt, tickByte_toNat s.st, s.tickTimers_unchangedExcept⟩

theorem unchangedExcept.refl (ps : List Part) (s : State) : unchangedExcept ps s s := by
  intro p _
  cases p <;> simp [Part.same]

/-- Settles O57: by induction on the number of ticks. -/
theorem timersCountTicksDownToZero : Obligations.TimersCountTicksDownToZero := by
  unfold Obligations.TimersCountTicksDownToZero
  rintro n s t rfl
  induction n generalizing s with
  | zero => exact ⟨rfl, rfl, unchangedExcept.refl _ s⟩
  | succ n ih =>
    obtain ⟨hdt, hst, hframe⟩ := ih s.tickTimers
    obtain ⟨hdt1, hst1, hframe1⟩ := tickDecrementsBothTimers s s.tickTimers rfl
    refine ⟨?_, ?_, (hframe1.trans hframe).mono (by simp)⟩
    · exact hdt.trans (by rw [hdt1, Nat.sub_sub, Nat.add_comm])
    · exact hst.trans (by rw [hst1, Nat.sub_sub, Nat.add_comm])

/-- Settles O53: each part as `State.reset` writes it, memory by what an unlisted address reads as. -/
theorem powerOnStateAsSpecified : Obligations.PowerOnStateAsSpecified := by
  unfold Obligations.PowerOnStateAsSpecified
  refine ⟨State.reset_reg, rfl, rfl, rfl, State.reset_stackAt, rfl, rfl, ?pixels, State.reset_keyDown, rfl, rfl, ?zeros,
    ?font⟩
  case pixels =>
    intro x y
    rw [State.reset_fb, Frame.pixel_blank]
  case zeros =>
    intro a ha
    have hout : ¬ (0x050 ≤ a ∧ a < 0x0A0) := by omega
    rw [State.reset_byteAt, unlisted_eq_ite, if_neg hout]
  case font => decide

end Sys2Proof.Machine

/-! Digits, register dump and register load (42_index_memory.md). -/

namespace Sys2Proof.Machine

section ranges

variable {s : State}

/-- An instruction that accesses a range out of bounds raises and does nothing else. -/
theorem completes_of_outside {i : Instr} {n : Nat} {k : Out} (h : exec i s = s.withRange n k) (hpos : 0 < n)
    (hout : 0xFFF < s.i.toNat + n - 1) : completes i s (latchesOnly (.memoryOutOfBounds (s.pc - 2) s.i) s) :=
  ⟨_, h.trans (State.withRange_of_outside (inBounds_eq_false_iff.2 ⟨hpos, hout⟩)), s.raise_latchesOnly _⟩

/-- An instruction that accesses a range in bounds runs its continuation. -/
theorem exec_of_inside {i : Instr} {n : Nat} {u : State} (h : exec i s = s.withRange n (.next u))
    (hin : n = 0 ∨ s.i.toNat + n - 1 ≤ 0xFFF) : exec i s = .next u := by
  refine h.trans (State.withRange_of_inBounds ((inBounds_iff _ _).2 ?_))
  rw [Config.memSize_eq]
  omega

end ranges

/-! The digits of a byte. -/

theorem read_writeBytes_three (m : Memory) {a : Nat} (b0 b1 b2 : Byte) (ha : a + 2 ≤ 0xFFF) (hm : Memory.wf m) (c : Nat) :
    Memory.read (Memory.writeBytes m a [b0, b1, b2]) c =
      if c = a then b0 else if c = a + 1 then b1 else if c = a + 2 then b2 else Memory.read m c := by
  have hin : a + [b0, b1, b2].length ≤ Config.memSize := Nat.succ_le_succ ha
  by_cases hc : a ≤ c ∧ c < a + 3
  · have hstored := read_writeBytes_inside (k := c - a) hin hm (by simp; omega)
    obtain rfl | rfl | rfl : c = a ∨ c = a + 1 ∨ c = a + 2 := by omega
    all_goals simpa [eq_comm] using hstored
  · rw [read_writeBytes_outside _ _ _ _ (by simp; omega), if_neg (by omega), if_neg (by omega), if_neg (by omega)]

/-- Settles O34: the three digits are stored at `I` and after. -/
theorem bcdStoresThreeDigits : Obligations.BcdStoresThreeDigits := by
  unfold Obligations.BcdStoresThreeDigits
  intro x s hm
  refine ⟨decodeWord_groupF x 0x33, fun hout => completes_of_outside rfl (by decide) hout, fun hin => ?_⟩
  exact ⟨_, exec_of_inside rfl (.inr hin), read_writeBytes_three s.mem _ _ _ hin hm, s.setMem_unchangedExcept _⟩

/-! A dump and a load of V0 to VX. -/

section transfer

variable {s : State} {x : Reg}

/-- `I` after a transfer inside memory is at most 0x1000, so it is held whole. -/
theorem State.indexAfter_toNat (hin : s.i.toNat + x.val ≤ 0xFFF) :
    (s.indexAfter x).toNat = if s.q.loadstore then s.i.toNat + x.val + 1 else s.i.toNat := by
  unfold State.indexAfter
  split
  case isTrue => rw [BitVec.toNat_ofNat]; omega
  case isFalse => rfl

theorem execLdMemVx_of_inside (hin : s.i.toNat + x.val ≤ 0xFFF) :
    exec (.ldMemVx x) s =
      .next ((s.setMem (Memory.writeBytes s.mem s.i.toNat (s.regsUpTo x))).setI (s.indexAfter x)) :=
  exec_of_inside rfl (.inr hin)

theorem execLdVxMem_of_inside (hin : s.i.toNat + x.val ≤ 0xFFF) :
    exec (.ldVxMem x) s =
      .next ((s.setVs (loadRegs s.mem s.i.toNat (x.val + 1) s.v)).setI (s.indexAfter x)) :=
  exec_of_inside rfl (.inr hin)

/-- The byte that a dump stores for a register. -/
theorem read_dumped (hm : Memory.wf s.mem) (hin : s.i.toNat + x.val ≤ 0xFFF) {k : Reg} (hk : k ≤ x) :
    Memory.read (Memory.writeBytes s.mem s.i.toNat (s.regsUpTo x)) (s.i.toNat + k.val) = s.reg k := by
  have hle : k.val ≤ x.val := hk
  rw [read_writeBytes _ _ _ _ (by simp; omega) hm, if_pos (by simp; omega), Nat.add_sub_cancel_left,
    s.regsUpTo_getD x k hk]

end transfer

/-- Settles O35: `writeBytes` of the registers in order. -/
theorem registerDumpStoresUpToVx : Obligations.RegisterDumpStoresUpToVx := by
  unfold Obligations.RegisterDumpStoresUpToVx
  intro x s hm
  refine ⟨decodeWord_groupF x 0x55, fun hout => completes_of_outside rfl x.val.succ_pos hout, fun hin => ?_⟩
  refine ⟨_, execLdMemVx_of_inside hin, fun k hk => read_dumped hm hin hk, fun a ha => ?others,
    State.indexAfter_toNat hin, (s.setMem_unchangedExcept _).trans (State.setI_unchangedExcept _ _)⟩
  case others => exact read_writeBytes_outside _ _ _ _ (by simp; omega)

/-- Settles O36: `loadRegs` reads a byte for each register up to VX. -/
theorem registerLoadReadsUpToVx : Obligations.RegisterLoadReadsUpToVx := by
  unfold Obligations.RegisterLoadReadsUpToVx
  intro x s
  refine ⟨decodeWord_groupF x 0x65, fun hout => completes_of_outside rfl x.val.succ_pos hout, fun hin => ?_⟩
  exact ⟨_, execLdVxMem_of_inside hin, s.loadRegs_reg x, State.indexAfter_toNat hin,
    (s.setVs_unchangedExcept _).trans (State.setI_unchangedExcept _ _)⟩

/-- Settles O37: the load reads the byte that the dump stored for the register. -/
theorem registerLoadUndoesDump : Obligations.RegisterLoadUndoesDump := by
  unfold Obligations.RegisterLoadUndoesDump
  intro x s t u hm hin h hi hbytes
  have hin' : u.i.toNat + x.val ≤ 0xFFF := hi.symm ▸ hin
  cases (execLdMemVx_of_inside hin).symm.trans h
  refine ⟨_, execLdVxMem_of_inside hin', fun r hr => ?_⟩
  calc (loadRegs u.mem u.i.toNat (x.val + 1) u.v)[r]
      = u.byteAt (s.i.toNat + r.val) := by rw [u.loadRegs_reg, if_pos hr, hi]
    _ = Memory.read (Memory.writeBytes s.mem s.i.toNat (s.regsUpTo x)) (s.i.toNat + r.val) := hbytes _
    _ = s.reg r := read_dumped hm hin hr

/-- Settles O38: the fetch reads the bytes stored for V0 and V1. -/
theorem storeIsSeenByTheNextFetch : Obligations.StoreIsSeenByTheNextFetch := by
  unfold Obligations.StoreIsSeenByTheNextFetch
  intro x s t hm hx hpc hin h
  cases (execLdMemVx_of_inside hin).symm.trans h
  have h0 : Memory.read (Memory.writeBytes s.mem s.i.toNat (s.regsUpTo x)) s.i.toNat = s.reg 0 :=
    read_dumped (k := 0) hm hin (Fin.zero_le x)
  have h1 : Memory.read (Memory.writeBytes s.mem s.i.toNat (s.regsUpTo x)) (s.i.toNat + 1) = s.reg 1 :=
    read_dumped (k := 1) hm hin (Fin.le_def.2 hx)
  refine ⟨_, State.fetch_eq_some _ ?inside, ?word⟩
  case inside =>
    rw [State.setI_pc, State.setMem_pc, ← hpc]
    omega
  case word =>
    rw [wordOfBytes_toNat, State.setI_byteAt, State.setI_byteAt, State.setMem_byteAt, State.setMem_byteAt, State.setI_pc,
      State.setMem_pc, ← hpc, h0, h1]

end Sys2Proof.Machine

/-! Drawing (43_display.md R191): a sprite covers a set of pixels, and a draw flips each of them once. -/

namespace Sys2Proof.Machine

theorem Frame.pixel_of_ge (f : Frame) (a : Nat) {p : Nat} (h : 32 ≤ p) : Frame.pixel f a p = false :=
  dif_neg (Nat.not_lt.2 h)

theorem Frame.lt_of_pixel {f : Frame} {a p : Nat} (h : Frame.pixel f a p = true) : p < 32 := by
  by_contra hp
  rw [f.pixel_of_ge a (Nat.not_lt.1 hp)] at h
  cases h

/-- From `d` to `e` exactly the pixels of `C` flip, as far as they lie on the display, and the collision is raised
exactly when one of them was on. -/
structure Flips (C : Nat → Nat → Prop) (d e : Frame × Bool) : Prop where
  covered : ∀ a p, p < 32 → C a p → Frame.pixel e.1 a p = !Frame.pixel d.1 a p
  other : ∀ a p, ¬ C a p → Frame.pixel e.1 a p = Frame.pixel d.1 a p
  collision : e.2 = true ↔ d.2 = true ∨ ∃ a p, C a p ∧ Frame.pixel d.1 a p = true

section flips

variable {C D : Nat → Nat → Prop} {d e f : Frame × Bool}

/-- Pixels below the display are dropped. -/
theorem Flips.of_below (h : ∀ a p, C a p → 32 ≤ p) : Flips C d d where
  covered a p hp hC := absurd hp (Nat.not_lt.2 (h a p hC))
  other a p _ := rfl
  collision := by
    refine ⟨.inl, fun hd => hd.resolve_right ?_⟩
    rintro ⟨a, p, hC, hon⟩
    exact absurd (Frame.lt_of_pixel hon) (Nat.not_lt.2 (h a p hC))

theorem Flips.congr (h : Flips C d e) (hCD : ∀ a p, D a p ↔ C a p) : Flips D d e := by
  obtain rfl : D = C := funext₂ fun a p => propext (hCD a p)
  exact h

/-- Two draws over disjoint pixels are one draw over both. -/
theorem Flips.trans (h1 : Flips C d e) (h2 : Flips D e f) (hdisj : ∀ a p, C a p → ¬ D a p) :
    Flips (fun a p => C a p ∨ D a p) d f where
  covered a p hp := by
    rintro (hC | hD)
    · rw [h2.other a p (hdisj a p hC), h1.covered a p hp hC]
    · rw [h2.covered a p hp hD, h1.other a p fun hC => hdisj a p hC hD]
  other a p hno := by
    obtain ⟨hC, hD⟩ := not_or.1 hno
    rw [h2.other a p hD, h1.other a p hC]
  collision := by
    have hkept : ∀ a p, D a p → Frame.pixel e.1 a p = Frame.pixel d.1 a p :=
      fun a p hD => h1.other a p fun hC => hdisj a p hC hD
    rw [h2.collision, h1.collision]
    constructor
    · rintro ((hd | ⟨a, p, hC, hon⟩) | ⟨a, p, hD, hon⟩)
      · exact .inl hd
      · exact .inr ⟨a, p, .inl hC, hon⟩
      · exact .inr ⟨a, p, .inr hD, hkept a p hD ▸ hon⟩
    · rintro (hd | ⟨a, p, hC | hD, hon⟩)
      · exact .inl (.inl hd)
      · exact .inl (.inr ⟨a, p, hC, hon⟩)
      · exact .inr ⟨a, p, hD, (hkept a p hD).trans hon⟩

end flips

/-! What the bits of a row and the rows of a sprite cover. -/

/-- Bit `c` of the sprite row `b` is 1 and lies over pixel `(a, p)`, the row drawn from column `x0` on display row `y`. -/
def bitCovers (b : Byte) (x0 y c a p : Nat) : Prop := p = y ∧ a = (x0 + c) % 64 ∧ b.getLsbD (7 - c) = true

/-- One of the first eight bits of row `b` covers `(a, p)`. -/
def rowCovers (b : Byte) (x0 y a p : Nat) : Prop := ∃ c ∈ List.range 8, bitCovers b x0 y c a p

/-- One of the rows `bs`, drawn from display row `y` down, covers `(a, p)`. -/
def rowsCover (x0 : Nat) (bs : List Byte) (y a p : Nat) : Prop :=
  ∃ r < bs.length, rowCovers (bs.getD r 0) x0 (y + r) a p

theorem rowsCover_cons {x0 y a p : Nat} {b : Byte} {bs : List Byte} :
    rowsCover x0 (b :: bs) y a p ↔ rowCovers b x0 y a p ∨ rowsCover x0 bs (y + 1) a p := by
  constructor
  · rintro ⟨r, hr, hcov⟩
    cases r with
    | zero => exact .inl hcov
    | succ r => exact .inr ⟨r, Nat.lt_of_succ_lt_succ hr, by rwa [Nat.add_right_comm, Nat.add_assoc]⟩
  · rintro (hcov | ⟨r, hr, hcov⟩)
    · exact ⟨0, Nat.succ_pos _, hcov⟩
    · exact ⟨r + 1, Nat.succ_lt_succ hr, by rwa [Nat.add_right_comm, Nat.add_assoc] at hcov⟩

theorem row_of_rowCovers {b : Byte} {x0 y a p : Nat} (h : rowCovers b x0 y a p) : p = y := by
  obtain ⟨c, -, hp, -, -⟩ := h
  exact hp

theorem le_of_rowsCover {x0 y a p : Nat} {bs : List Byte} (h : rowsCover x0 bs y a p) : y ≤ p := by
  obtain ⟨r, -, hcov⟩ := h
  exact (Nat.le_add_right y r).trans_eq (row_of_rowCovers hcov).symm

/-! A draw flips what it covers: bit by bit, then row by row. -/

section draw

variable (b : Byte) (x0 : Nat) {y : Nat}

theorem drawBit_flips (hy : y < 32) (d : Frame × Bool) (c : Nat) :
    Flips (bitCovers b x0 y c) d (drawBit b x0 y d c) := by
  have hcol : (x0 + c) % 64 < 64 := Nat.mod_lt _ (by decide)
  cases hbit : b.getLsbD (7 - c) with
  | false =>
    have hnone : ∀ a p, ¬ bitCovers b x0 y c a p := by simp [bitCovers, hbit]
    simp only [drawBit, hbit, Bool.false_eq_true, if_false]
    exact Flips.of_below fun a p h => absurd h (hnone a p)
  | true =>
    have hcov : ∀ a p, bitCovers b x0 y c a p ↔ a = (x0 + c) % 64 ∧ p = y := by simp [bitCovers, hbit, and_comm]
    refine Flips.congr ?_ hcov
    simp only [drawBit, hbit, if_true]
    refine ⟨fun a p _ h => ?_, fun a p h => ?_, ?_⟩
    · rw [Frame.pixel_toggle _ _ _ _ _ hcol hy, if_pos h]
    · rw [Frame.pixel_toggle _ _ _ _ _ hcol hy, if_neg h]
    · simp

/-- Bits over distinct columns cover distinct pixels. -/
theorem drawBits_flips (hy : y < 32) {cs : List Nat} (hcs : cs.Pairwise fun c c' => (x0 + c) % 64 ≠ (x0 + c') % 64)
    (d : Frame × Bool) :
    Flips (fun a p => ∃ c ∈ cs, bitCovers b x0 y c a p) d (cs.foldl (drawBit b x0 y) d) := by
  induction cs generalizing d with
  | nil => exact Flips.of_below (by simp)
  | cons c cs ih =>
    obtain ⟨hc, hrest⟩ := List.pairwise_cons.1 hcs
    refine ((drawBit_flips b x0 hy d c).trans (ih hrest _) ?disjoint).congr fun a p => List.exists_mem_cons_iff _ _ _
    case disjoint =>
      rintro a p ⟨-, ha, -⟩ ⟨c', hc', -, ha', -⟩
      exact hc c' hc' (ha.symm.trans ha')

/-- Eight columns in a row are distinct modulo 64. -/
theorem columns_pairwise_ne : (List.range 8).Pairwise fun c c' => (x0 + c) % 64 ≠ (x0 + c') % 64 := by
  refine List.pairwise_lt_range.imp_of_mem fun hc hc' hlt => ?_
  rw [List.mem_range] at hc hc'
  omega

theorem drawRow_flips (hy : y < 32) (d : Frame × Bool) : Flips (rowCovers b x0 y) d (drawRow b x0 y d) :=
  drawBits_flips b x0 hy (columns_pairwise_ne x0) d

theorem drawRows_flips (bs : List Byte) (y : Nat) (d : Frame × Bool) :
    Flips (rowsCover x0 bs y) d (drawRows x0 bs y d) := by
  induction bs generalizing y d with
  | nil => exact Flips.of_below fun a p ⟨r, hr, _⟩ => absurd hr (Nat.not_lt_zero r)
  | cons b bs ih =>
    have hrow : Flips (rowCovers b x0 y) d (if y ≤ 31 then drawRow b x0 y d else d) := by
      split
      case isTrue hy => exact drawRow_flips b x0 (Nat.lt_succ_of_le hy) d
      case isFalse hy => exact Flips.of_below fun a p h => (row_of_rowCovers h).symm ▸ Nat.not_le.1 hy
    refine (hrow.trans (ih (y + 1) _) fun a p h hbelow => ?disjoint).congr fun a p => rowsCover_cons
    case disjoint => exact absurd (le_of_rowsCover hbelow) (Nat.not_le.2 (row_of_rowCovers h ▸ Nat.lt_succ_self _))

end draw

/-! The sprite of a state. -/

theorem spriteCovers_iff_rowsCover {s : State} {vx vy : Byte} {n a p : Nat} :
    spriteCovers s vx vy n a p ↔
      rowsCover (vx.toNat % 64) (Memory.readBytes s.mem s.i.toNat n) (vy.toNat % 32) a p := by
  unfold spriteCovers rowsCover rowCovers bitCovers
  simp only [readBytes_length, List.mem_range]
  constructor
  · rintro ⟨r, c, hr, hc, hp, ha, hbit⟩
    exact ⟨r, hr, c, hc, hp, ha, by rwa [readBytes_getD _ _ _ _ hr]⟩
  · rintro ⟨r, hr, c, hc, hp, ha, hbit⟩
    exact ⟨r, c, hr, hc, hp, ha, by rwa [readBytes_getD _ _ _ _ hr] at hbit⟩

theorem State.drawn_flips (s : State) (x y : Reg) (n : Nat) :
    Flips (spriteCovers s (s.reg x) (s.reg y) n) (s.fb, false) (s.drawn x y n) :=
  (drawRows_flips _ _ _ _).congr fun _ _ => spriteCovers_iff_rowsCover

theorem lt_of_spriteCovers {s : State} {vx vy : Byte} {n a p : Nat} (h : spriteCovers s vx vy n a p) : a < 64 := by
  obtain ⟨r, c, -, -, -, ha, -⟩ := h
  exact ha ▸ Nat.mod_lt _ (by decide)

/-- The sprite depends on the bytes from `I` up and on the coordinate values. -/
theorem spriteCovers_congr {s u : State} (hi : u.i = s.i) (hbytes : ∀ a, u.byteAt a = s.byteAt a) :
    spriteCovers u = spriteCovers s := by
  funext vx vy n a p
  simp only [spriteCovers, hi, hbytes]

/-- The collision of a draw, with the pixel that collides on the display. -/
theorem State.drawn_collision (s : State) (x y : Reg) (n : Nat) :
    (s.drawn x y n).2 = true ↔ ∃ px py : Nat, px < 64 ∧ py < 32 ∧ spriteCovers s (s.reg x) (s.reg y) n px py ∧
      Frame.pixel s.fb px py = true := by
  rw [(s.drawn_flips x y n).collision]
  constructor
  · rintro (h | ⟨a, p, hcov, hon⟩)
    · cases h
    · exact ⟨a, p, lt_of_spriteCovers hcov, Frame.lt_of_pixel hon, hcov, hon⟩
  · rintro ⟨a, p, -, -, hcov, hon⟩
    exact .inr ⟨a, p, hcov, hon⟩

theorem State.setFlag_reg_vf_eq_one_iff (s : State) (f : Bool) : (s.setFlag f).reg vf = 1 ↔ f = true := by
  rw [State.setFlag_reg, if_pos rfl]
  cases f <;> decide

theorem execDrwVxVyNibble_of_inside {x y : Reg} {n : Nat} {s : State} (hin : n = 0 ∨ s.i.toNat + n - 1 ≤ 0xFFF) :
    exec (.drwVxVyNibble x y n) s = .next ((s.setFb (s.drawn x y n).1).setFlag (s.drawn x y n).2) :=
  exec_of_inside rfl hin

/-- Settles O40: `drawn_flips`, and VF is written last. -/
theorem drawFlipsThePixelsUnderTheSprite : Obligations.DrawFlipsThePixelsUnderTheSprite := by
  unfold Obligations.DrawFlipsThePixelsUnderTheSprite
  intro x y n s hn
  refine ⟨decodeWord_drwVxVyNibble x y hn, fun ⟨hpos, hout⟩ => completes_of_outside rfl hpos hout, fun hin => ?_⟩
  have hflips := s.drawn_flips x y n
  refine ⟨_, execDrwVxVyNibble_of_inside hin, fun px py _ hpy => ⟨hflips.covered px py hpy, hflips.other px py⟩,
    fun r hr => ?others, State.setFlag_reg_vf _ _, (State.setFlag_reg_vf_eq_one_iff _ _).trans (s.drawn_collision x y n),
    ((s.setFb_unchangedExcept _).trans (State.setFlag_unchangedExcept _ _)).mono (by simp)⟩
  case others => rw [State.setFlag_reg, if_neg hr, State.setFb_reg]

/-- Settles O41: the second draw covers the same pixels, and on each of them finds what the first flipped. -/
theorem drawingTwiceRestoresTheDisplay : Obligations.DrawingTwiceRestoresTheDisplay := by
  unfold Obligations.DrawingTwiceRestoresTheDisplay
  intro x y x2 y2 n s t u hin h hfb hi hbytes hx hy
  cases (execDrwVxVyNibble_of_inside hin).symm.trans h
  have hfb' : u.fb = (s.drawn x y n).1 := hfb
  have hin' : n = 0 ∨ u.i.toNat + n - 1 ≤ 0xFFF := hi.symm ▸ hin
  have hfirst := s.drawn_flips x y n
  have hsecond := u.drawn_flips x2 y2 n
  rw [spriteCovers_congr hi hbytes, hx, hy, hfb'] at hsecond
  refine ⟨_, execDrwVxVyNibble_of_inside hin', fun px py => ?pixels, ?flag⟩
  case pixels =>
    rw [State.setFlag_fb, State.setFb_fb]
    by_cases hcov : spriteCovers s (s.reg x) (s.reg y) n px py
    · rcases Nat.lt_or_ge py 32 with hpy | hpy
      · rw [hsecond.covered px py hpy hcov, hfirst.covered px py hpy hcov, Bool.not_not]
      · rw [Frame.pixel_of_ge _ _ hpy, Frame.pixel_of_ge _ _ hpy]
    · rw [hsecond.other px py hcov, hfirst.other px py hcov]
  case flag =>
    rw [State.setFlag_reg_vf_eq_one_iff, u.drawn_collision, spriteCovers_congr hi hbytes, hx, hy, hfb']
    refine exists₂_congr fun px py => and_congr_right fun _ => and_congr_right fun hpy => and_congr_right fun hcov => ?_
    rw [hfirst.covered px py hpy hcov, Bool.not_eq_true']

end Sys2Proof.Machine
